-- ==== Sys2Proof/Word.lean ====
section
/-! DEFINITION. The word types of the binary record form REC32 (30_encoding.md R83). The engine itself moves no
words: everything else in this model is a natural number, an integer, a list or an inductive type. -/

namespace Sys2Proof

/-- One REC32 word (R83). -/
abbrev Word := BitVec 32

/-- One byte: an operand field or the kind code of a REC32 word (R83). -/
abbrev Byte := BitVec 8

end Sys2Proof
end

