-- ==== Sys2Proof/Syntax.lean ====
section
/-! DEFINITION. The instruction record `(kind, op1, op2, op3)` (30_encoding.md R80): four kinds, three integer
operands each, and the predicate "producing" of 10_state.md R23. -/

namespace Sys2Proof

/-- The four kind letters (R80): "register, immediate-ALU, load, store" (10_state.md R21). -/
inductive Kind where
  | R
  | I
  | L
  | S
  deriving DecidableEq, Repr

/-- An instruction record: one constructor per row of spec/opcode_table.json. The operands are the integers
`op1, op2, op3` of R80; what each position means is fixed by the kind alone (R85). -/
inductive Instr where
  /-- `R,op1,op2,op3` (41_instruction_kinds.md R121): destination, source, source. -/
  | regOp (op1 op2 op3 : Int)
  /-- `I,op1,op2,op3` (R122): destination, source, immediate. -/
  | immOp (op1 op2 op3 : Int)
  /-- `L,op1,op2,op3` (R123): destination, immediate, source. -/
  | load (op1 op2 op3 : Int)
  /-- `S,op1,op2,op3` (R124): source, immediate, source. -/
  | store (op1 op2 op3 : Int)
  deriving DecidableEq, Repr

/-- The record with the given kind and operands (R80). -/
def Kind.record : Kind → Int → Int → Int → Instr
  | .R => .regOp
  | .I => .immOp
  | .L => .load
  | .S => .store

/-- The record field `kind` (10_state.md R21). -/
def Instr.kind : Instr → Kind
  | .regOp _ _ _ => .R
  | .immOp _ _ _ => .I
  | .load _ _ _ => .L
  | .store _ _ _ => .S

/-- The record field `arch_dst`, bound to `op1` by position (10_state.md R22). -/
def Instr.op1 : Instr → Int
  | .regOp a _ _ => a
  | .immOp a _ _ => a
  | .load a _ _ => a
  | .store a _ _ => a

/-- The record field `arch_src1`, bound to `op2` by position (R22). -/
def Instr.op2 : Instr → Int
  | .regOp _ b _ => b
  | .immOp _ b _ => b
  | .load _ b _ => b
  | .store _ b _ => b

/-- The record field `arch_src2`, bound to `op3` by position (R22). -/
def Instr.op3 : Instr → Int
  | .regOp _ _ c => c
  | .immOp _ _ c => c
  | .load _ _ c => c
  | .store _ _ c => c

/-- `produces(i)`: kind `R`, `I` or `L` with `op1 ≠ 0` (10_state.md R23). -/
def Instr.produces : Instr → Bool
  | .regOp a _ _ => a != 0
  | .immOp a _ _ => a != 0
  | .load a _ _ => a != 0
  | .store _ _ _ => false

end Sys2Proof
end

