-- ==== Sys2Proof/WellFormed.lean ====
section
/-! DEFINITION. Which records are well formed (30_encoding.md R86) and which of them the binary form REC32 can
write (R84). -/

namespace Sys2Proof

/-- `A`, the number of architectural registers, fixed at 32 (00_scope.md R5). -/
def archRegCount : Nat := 32

/-- "A register operand must be an architectural index `0 … 31`" (R86). -/
def regInRange (v : Int) : Bool := decide (0 ≤ v) && decide (v < (archRegCount : Int))

/-- An immediate that REC32's 8-bit signed field can write (R84). An immediate outside it is well formed, but has
no binary form. -/
def immInRange (v : Int) : Bool := decide (-128 ≤ v) && decide (v ≤ 127)

/-- A well-formed record: every operand that R85 makes a register is in range (R86). An immediate operand "may be
any integer the form can write". -/
def Instr.wellFormed : Instr → Bool
  | .regOp a b c => regInRange a && regInRange b && regInRange c
  | .immOp a b _ => regInRange a && regInRange b
  | .load a _ c => regInRange a && regInRange c
  | .store a _ c => regInRange a && regInRange c

/-- The immediate operand fits REC32 (R84). Kind `R` has none. -/
def Instr.encodable : Instr → Bool
  | .regOp _ _ _ => true
  | .immOp _ _ v => immInRange v
  | .load _ v _ => immInRange v
  | .store _ v _ => immInRange v

/-- The architectural register that a source position names (R85; 10_state.md R22): `true` is position `op2`, `false` is
position `op3`; none for an immediate. -/
def Instr.sourceReg : Instr → Bool → Option Nat
  | .regOp _ b _, true => some b.toNat
  | .regOp _ _ c, false => some c.toNat
  | .immOp _ b _, true => some b.toNat
  | .immOp _ _ _, false => none
  | .load _ _ _, true => none
  | .load _ _ c, false => some c.toNat
  | .store _ _ _, true => none
  | .store _ _ c, false => some c.toNat

/-- The operand at a source position: what is passed on where it is an immediate. -/
def Instr.sourceImm : Instr → Bool → Int
  | i, true => i.op2
  | i, false => i.op3

end Sys2Proof
end

