-- ==== Sys2Proof/Config.lean ====
section
/-! DEFINITION. The configuration: the issue width `W`, the physical register count `P` and the trace (10_state.md
R20). The spec leaves nothing to a free value (48_invariants.md R232), so no opaque constant stands here. -/

namespace Sys2Proof

/-- The configuration, "immutable after init" (R20). `N` is the length of the trace. -/
structure Config where
  /-- `W`, the width of every stage and latch, at least 1 (00_scope.md R5). -/
  issueWidth : Nat
  /-- `P`, the number of physical registers, more than 32 (R5). -/
  physRegCount : Nat
  /-- The trace: the decoded records, unknown kinds already dropped (30_encoding.md R80, R87). -/
  trace : List Instr
  deriving DecidableEq, Repr

/-- `W ≥ 1` and `P > 32` (00_scope.md R6). -/
def Config.widthsLegal (c : Config) : Bool :=
  decide (1 ≤ c.issueWidth) && decide (archRegCount < c.physRegCount)

/-- Every record of the trace is well formed (R86). -/
def Config.traceWellFormed (c : Config) : Bool := c.trace.all Instr.wellFormed

/-- The precondition of a run (70_reset_and_hazards.md R262). -/
def Config.legal (c : Config) : Bool := c.widthsLegal && c.traceWellFormed

/-- The configuration that `State.reset` carries, DESIGN CHOICE (notes/assumptions/1.md): the `P` and `W` of the
first worked example, Scenario A, and the empty trace. -/
def Config.atReset : Config := { issueWidth := 2, physRegCount := 34, trace := [] }

end Sys2Proof
end

