-- ==== Sys2Proof/Decode.lean ====
section
/-! DEFINITION. The decoder of REC32 (30_encoding.md R83 to R87), total on any bytes, and the encoder. A word is
stored most significant byte first, so the first byte is the kind letter (20_memory.md R63). -/

namespace Sys2Proof

/-- What the decoder makes of the bytes at hand. -/
inductive Decoded where
  /-- A well-formed record of one of the four kinds. -/
  | record (i : Instr)
  /-- The kind code is none of the four: the record is dropped before Fetch, no trap (R87). Safe: the spec says so. -/
  | unknownKind (code : Byte)
  /-- A register operand lies outside `0 … 31`: the record is refused at the boundary (R86). Safe: no run exists. -/
  | registerOutOfRange (i : Instr)
  /-- Fewer than four bytes are left: no whole record (R88: one length for all). Safe: nothing is decoded. -/
  | truncated
  deriving DecidableEq, Repr

/-- The kind code: the ASCII code of the kind letter (R83, 93_implementation_defined.md G1). -/
def kindCode : Kind → Byte
  | .R => 0x52
  | .I => 0x49
  | .L => 0x4C
  | .S => 0x53

/-- The kind a code names; none for the other 252 codes (R87). -/
def kindOfCode (c : Byte) : Option Kind :=
  if c = 0x52 then some .R
  else if c = 0x49 then some .I
  else if c = 0x4C then some .L
  else if c = 0x53 then some .S
  else none

/-- `bits[31:24]`, the kind code (R83). -/
def kindField (w : Word) : Byte := w.extractLsb' 24 8

/-- `bits[23:16]` (R83). -/
def field1 (w : Word) : Byte := w.extractLsb' 16 8

/-- `bits[15:8]` (R83). -/
def field2 (w : Word) : Byte := w.extractLsb' 8 8

/-- `bits[7:0]` (R83). -/
def field3 (w : Word) : Byte := w.extractLsb' 0 8

/-- `sext_8`: the operand an 8-bit field stands for (R84). -/
def sext8 (b : Byte) : Int := b.toInt

/-- The record that the fields of a word name, its operands not yet checked; none for an unknown kind. -/
def decodeFields (w : Word) : Option Instr :=
  match kindOfCode (kindField w) with
  | some k => some (k.record (sext8 (field1 w)) (sext8 (field2 w)) (sext8 (field3 w)))
  | none => none

/-- One REC32 word decoded (R83 to R87). -/
def decodeWord (w : Word) : Decoded :=
  match decodeFields w with
  | some i => if i.wellFormed then .record i else .registerOutOfRange i
  | none => .unknownKind (kindField w)

/-- The word that four bytes in storage order make (20_memory.md R63). -/
def wordOfBytes (b0 b1 b2 b3 : Byte) : Word := b0 ++ b1 ++ b2 ++ b3

/-- The bytes of a word in storage order, most significant first (R63). -/
def bytesOfWord (w : Word) : List Byte := [kindField w, field1 w, field2 w, field3 w]

/-- Decode one record from the front of a byte sequence; the rest of the sequence comes back beside it. -/
def decode : List Byte → Decoded × List Byte
  | b0 :: b1 :: b2 :: b3 :: rest => (decodeWord (wordOfBytes b0 b1 b2 b3), rest)
  | bs => (.truncated, bs)

/-- The record a table word of `nbits` bits stands for: the word in storage order, through `decode`. -/
def decodeTableWord (_nbits w : Nat) : Option Instr :=
  match (decode (bytesOfWord (BitVec.ofNat 32 w))).1 with
  | .record i => some i
  | _ => none

/-- An operand cut to its 8-bit two's complement field (R83). -/
def fieldOf (v : Int) : Byte := BitVec.ofInt 8 v

/-- The REC32 word of a record (R83). It says what the record is only where `Instr.encodable` holds (R84). -/
def encodeWord (i : Instr) : Word :=
  wordOfBytes (kindCode i.kind) (fieldOf i.op1) (fieldOf i.op2) (fieldOf i.op3)

/-- The bytes of a record in storage order (R63). -/
def encode (i : Instr) : List Byte :=
  [kindCode i.kind, fieldOf i.op1, fieldOf i.op2, fieldOf i.op3]

/-- The trace that a sequence of REC32 words makes: unknown kinds are dropped (R87); one out-of-range register
operand and there is no trace (R86). -/
def traceOfWords : List Word → Option (List Instr)
  | [] => some []
  | w :: ws =>
    match decodeWord w with
    | .record i => (traceOfWords ws).map (i :: ·)
    | .unknownKind _ => traceOfWords ws
    | .registerOutOfRange _ => none
    | .truncated => none

end Sys2Proof
end

