-- ==== Sys2Proof/Machine/State.lean ====
section
/-! DEFINITION. The state of the engine as plain data (10_state.md), the reasons a step can be refused, and the state
after reset (10_state.md R36). -/

namespace Sys2Proof.Machine

open Sys2Proof

/-- The seven stages, in the order of an instruction's life (41_instruction_kinds.md R120). -/
inductive Stage where
  | F
  | Dc
  | R
  | Di
  | IS
  | W
  | C
  deriving DecidableEq, Repr

/-- The seven completion stamps of a record, `none` for "unset" (10_state.md R21). -/
structure Stamps where
  F : Option Nat
  Dc : Option Nat
  R : Option Nat
  Di : Option Nat
  IS : Option Nat
  W : Option Nat
  C : Option Nat
  deriving DecidableEq, Repr

/-- A renamed source slot: `reg(p)` or `imm(v)` (10_state.md R21; 92_eei_decisions.md D7). -/
inductive Src where
  | reg (p : Nat)
  | imm (v : Int)
  deriving DecidableEq, Repr

/-- The instruction record (10_state.md R21): the trace's fields and the fields the stages fill. -/
structure Record where
  /-- `kind`, `arch_dst`, `arch_src1`, `arch_src2`: from the trace, never changed. -/
  instr : Instr
  /-- The renamed destination, filled by Rename. -/
  physDst : Option Nat
  /-- The renamed `op2`, filled by Rename. -/
  physSrc1 : Option Src
  /-- The renamed `op3`, filled by Rename. -/
  physSrc2 : Option Src
  /-- Assigned at Fetch; the handle of the instruction (R38). -/
  fetchIndex : Option Nat
  /-- The completion stamps. -/
  cycle : Stamps
  deriving DecidableEq, Repr

/-- An issue-queue entry (10_state.md R29). -/
structure IQEntry where
  instrRef : Nat
  src1Ready : Bool
  src2Ready : Bool
  age : Nat
  deriving DecidableEq, Repr

/-- A reorder-buffer entry (10_state.md R30). `committed` is never seen true (92_eei_decisions.md D31). -/
structure ROBEntry where
  instrRef : Nat
  ready : Bool
  committed : Bool
  deriving DecidableEq, Repr

/-- The MODEL's own cursor: which stage is handling which instruction in which latch slot at this point of the tick
(notes/assumptions/3.md). `exec` reads it; at a tick boundary it stands at rest. -/
structure Focus where
  stage : Stage
  slot : Nat
  handle : Nat
  deriving DecidableEq, Repr

/-- The whole state of the engine. -/
structure State where
  /-- `W`, `P` and the trace (R20): never changed by a step. -/
  config : Config
  /-- The record table `rec[0 … N-1]` (R21). -/
  recs : List Record
  /-- The map table, architectural to physical index (R26). -/
  map : Vector Nat 32
  /-- The ready table, one boolean per physical register (R27). -/
  rdy : List Bool
  /-- The free list, head first (R28). -/
  free : List Nat
  /-- The issue queue (R29). -/
  iq : List IQEntry
  /-- The reorder buffer, head first (R30). -/
  rob : List ROBEntry
  /-- The writeback queue of handles, head first (R31). -/
  wbq : List Nat
  /-- Latch `F`, slot 0 first (R32). -/
  latchF : List (Option Nat)
  /-- Latch `Dc` (R32). -/
  latchDc : List (Option Nat)
  /-- Latch `R` (R32). -/
  latchR : List (Option Nat)
  /-- Latch `Di` (R32). -/
  latchDi : List (Option Nat)
  /-- The number stamped by every stage in this tick (R33). -/
  currentCycle : Nat
  /-- The index of the next record to fetch: the only program counter (R33). -/
  fetchOffset : Nat
  /-- The source of `age` (R33). -/
  iqAgeCounter : Nat
  /-- The number of instructions committed (R33). -/
  completedCount : Nat
  /-- The per-tick wires `wb_tags` (R35): empty at every tick boundary. -/
  wbTags : List Nat
  /-- The per-tick wires `is_tags` (R35): empty at every tick boundary. -/
  isTags : List Nat
  /-- The model's own cursor: at rest at every tick boundary. -/
  focus : Focus
  deriving DecidableEq, Repr

/-- No instruction raises an exception (60_exceptions.md R243) and an invariant violation is no behaviour (R244): the
machine has no fault, and the type of its faults has no constructor. -/
inductive Fault where
  deriving DecidableEq, Repr

/-- Why a step or a boot has no meaning. -/
inductive Refusal where
  /-- An arm of `exec` without a meaning yet; no arm answers with it now. Safe: the machine stops. -/
  | notModelled (mnemonic : String)
  /-- `W = 0` or `P ≤ 32` (00_scope.md R6; 93_implementation_defined.md U9, U10): raised by a step or a boot.
  Safe: the spec gives such a configuration no meaning. -/
  | illegalConfiguration
  /-- A register operand outside `0 … 31` (30_encoding.md R86; U11): raised by a step or a boot whose trace holds
  such a record, and by the meaning of such a record. Safe: the spec gives such a record no meaning. -/
  | registerOutOfRange
  /-- A latch or queue holds a handle that names no record, which 10_state.md R38 rules out: raised by a stage in a
  state no run reaches. Safe: the machine stops. -/
  | danglingHandle
  /-- E1, "input path cannot be opened; report and abort" (60_exceptions.md R241): raised by a boot. Safe: no run. -/
  | inputNotFound
  /-- E2, "first line does not yield two positive integers; abort" (R241): raised by a boot. Safe: no run. -/
  | malformedHeader
  deriving DecidableEq, Repr

/-- All seven stamps unset (10_state.md R36). -/
def Stamps.unset : Stamps :=
  { F := none, Dc := none, R := none, Di := none, IS := none, W := none, C := none }

/-- The record of a trace entry before its fetch (R36). -/
def Record.fresh (i : Instr) : Record :=
  { instr := i, physDst := none, physSrc1 := none, physSrc2 := none, fetchIndex := none, cycle := .unset }

/-- The identity mapping `a → a` (R26). -/
def identityMap : Vector Nat 32 := ⟨(List.range 32).toArray, rfl⟩

/-- A latch of `w` empty slots (R32, R36). -/
def emptyLatch (w : Nat) : List (Option Nat) := List.replicate w none

/-- The cursor at rest. -/
def Focus.rest : Focus := { stage := .F, slot := 0, handle := 0 }

/-- The state after reset for a configuration and its trace (10_state.md R36). It has meaning for a legal
configuration only (R6, R262). -/
def State.init (c : Config) : State :=
  { config := c
    recs := c.trace.map Record.fresh
    map := identityMap
    rdy := List.replicate c.physRegCount true
    free := List.range' archRegCount (c.physRegCount - archRegCount)
    iq := []
    rob := []
    wbq := []
    latchF := emptyLatch c.issueWidth
    latchDc := emptyLatch c.issueWidth
    latchR := emptyLatch c.issueWidth
    latchDi := emptyLatch c.issueWidth
    currentCycle := 0
    fetchOffset := 0
    iqAgeCounter := 0
    completedCount := 0
    wbTags := []
    isTags := []
    focus := .rest }

/-- The machine right after reset (R36), with no trace presented: notes/assumptions/1.md and 2.md. -/
def State.reset : State := State.init Config.atReset

end Sys2Proof.Machine
end

