-- ==== Sys2Proof/Machine/Operands.lean ====
section
/-! DEFINITION. The operand forms: what each operand position of a record is (30_encoding.md R85) and what Rename makes
of it (43_rename.md R152 to R157). -/

namespace Sys2Proof.Machine

open Sys2Proof

/-- A source slot before renaming: a register to translate or an immediate to pass (10_state.md R22). -/
inductive Operand where
  | reg (a : Fin 32)
  | imm (v : Int)
  deriving DecidableEq, Repr

/-- What becomes of `phys_dst`. -/
inductive Dest where
  /-- A producing instruction's destination: a register is taken from the free list (43_rename.md R153). -/
  | alloc (d : Fin 32)
  /-- A zero destination: `phys_dst` is 0 and nothing is taken (R157). -/
  | zero
  /-- A store's `op1`: `phys_dst` copies the map table and nothing is taken (R156). -/
  | copy (a : Fin 32)
  deriving DecidableEq, Repr

/-- How one kind uses its operands: all in which the kinds differ (41_instruction_kinds.md R120). -/
structure Roles where
  src1 : Operand
  src2 : Operand
  dst : Dest
  /-- Dispatch reads the ready table for its register sources; a store's flags are true whatever it says (R172). -/
  waits : Bool
  deriving DecidableEq, Repr

/-- The architectural register an operand names; none outside `0 … 31` (30_encoding.md R86). -/
def archReg (v : Int) : Option (Fin 32) :=
  if h : 0 ≤ v ∧ v < 32 then some ⟨v.toNat, by omega⟩ else none

/-- The destination form of kinds `R`, `I`, `L`: index 0 allocates nothing (10_state.md R23, R24). -/
def Dest.ofReg (d : Fin 32) : Dest := if d = 0 then .zero else .alloc d

/-- `produces(i)` (10_state.md R23), read off the destination form. -/
def Dest.producing : Dest → Bool
  | .alloc _ => true
  | .zero => false
  | .copy _ => false

/-- The renamed form of a source: `reg(map[a])` or `imm(v)` (43_rename.md R152). -/
def Operand.resolve (m : Vector Nat 32) : Operand → Src
  | .reg a => .reg m[a]
  | .imm v => .imm v

end Sys2Proof.Machine
end

