-- ==== Sys2Proof/Machine/Flags.lean ====
section
/-! DEFINITION. The ready flags: the only flags this hardware has (10_state.md R37). Their value at Dispatch
(44_dispatch.md R172), the effect of a wakeup (45_issue.md R186), eligibility (45_issue.md R180). -/

namespace Sys2Proof.Machine

/-- The ready bit `rdy[p]`. An index with no bit reads false; R26 to R28 rule it out. -/
def readyBit (rdy : List Bool) (p : Nat) : Bool := rdy.getD p false

/-- `flag(x)`: true for an immediate, the ready bit for a register (44_dispatch.md R172). A source that Rename has not
filled gives false; Dispatch takes none such (R170). -/
def srcFlag (rdy : List Bool) : Option Src → Bool
  | some (.reg p) => readyBit rdy p
  | some (.imm _) => true
  | none => false

/-- A source slot matches a wakeup tag: only `reg(t)`, never an immediate (45_issue.md R186). -/
def srcMatches (tags : List Nat) : Option Src → Bool
  | some (.reg p) => tags.contains p
  | some (.imm _) => false
  | none => false

/-- Both flags true: the entry may be selected (45_issue.md R180). -/
def IQEntry.eligible (e : IQEntry) : Bool := e.src1Ready && e.src2Ready

/-- One entry after the wakeup pass (45_issue.md R186): a flag is set by a matching tag, never cleared. The source tags
are those of the entry's record (10_state.md R29). -/
def wakeEntry (recs : List Record) (tags : List Nat) (e : IQEntry) : IQEntry :=
  match recs[e.instrRef]? with
  | some r =>
    { e with
      src1Ready := e.src1Ready || srcMatches tags r.physSrc1
      src2Ready := e.src2Ready || srcMatches tags r.physSrc2 }
  | none => e

end Sys2Proof.Machine
end

