-- ==== Sys2Proof/Machine/Ops.lean ====
section
/-! DEFINITION. The named operations over the state. First what one stage does with ONE instruction, the seven stages in
the order of an instruction's life (41_instruction_kinds.md R120); each acts on the instruction the cursor names. Then
the operations of a stage that belong to no single instruction. There is no exception to take and none to return from
(60_exceptions.md R243, R249, R250). -/

namespace Sys2Proof.Machine

open Sys2Proof

/-- The outcome of a step, a stage or a meaning. -/
abbrev Out := Host.Outcome State Fault Refusal

/-- Go on with the next state; a stop stays a stop. -/
def andThen (o : Out) (f : State → Out) : Out :=
  match o with
  | .next s => f s
  | .fault r => .fault r
  | .refused r => .refused r

/-- Point the cursor at an instruction: its stage, its latch slot, its handle. -/
def State.focusOn (st : Stage) (slot handle : Nat) (s : State) : State :=
  { s with focus := { stage := st, slot := slot, handle := handle } }

/-- The stamp of one stage, `cycle[S]` (R21). -/
def Stamps.get (c : Stamps) : Stage → Option Nat
  | .F => c.F
  | .Dc => c.Dc
  | .R => c.R
  | .Di => c.Di
  | .IS => c.IS
  | .W => c.W
  | .C => c.C

/-- The stamps with that of one stage set to a cycle number. -/
def Stamps.put (c : Stamps) (st : Stage) (t : Nat) : Stamps :=
  match st with
  | .F => { c with F := some t }
  | .Dc => { c with Dc := some t }
  | .R => { c with R := some t }
  | .Di => { c with Di := some t }
  | .IS => { c with IS := some t }
  | .W => { c with W := some t }
  | .C => { c with C := some t }

/-- `stamp(i, S)`: the record's `cycle[S]` becomes `current_cycle` (00_scope.md R10); on the owned record, found by its
handle (10_state.md R38). -/
def Record.stamp (st : Stage) (t : Nat) (r : Record) : Record :=
  { r with cycle := r.cycle.put st t }

/-- `rec(h).phys_dst`, none where Rename has not filled it. -/
def State.physDstOf (h : Nat) (s : State) : Option Nat := (s.recs[h]?).bind Record.physDst

/-- The register a producing instruction acts on after Rename: its `phys_dst`, as a list of at most one. An
instruction that is not producing acts on none (10_state.md R23). -/
def State.ownReg (producing : Bool) (h : Nat) (s : State) : List Nat :=
  if producing then (s.physDstOf h).toList else []

/-- Set the ready bits of the listed registers. -/
def setReady (rdy : List Bool) (ps : List Nat) : List Bool := ps.foldl (fun t p => t.set p true) rdy

/-! ### One instruction at one stage -/

/-- Fetch of one record (42_fetch_decode.md R140): the record, its renamed fields and stamps unset, gets the next fetch
index and the stamp, and goes into the slot. -/
def State.fetchOne (i : Instr) (s : State) : State :=
  { s with
    recs := s.recs.set s.fetchOffset
      { Record.fresh i with
        fetchIndex := some s.fetchOffset
        cycle := Stamps.unset.put .F s.currentCycle }
    latchF := s.latchF.set s.focus.slot (some s.fetchOffset)
    fetchOffset := s.fetchOffset + 1 }

/-- Decode of one slot (42_fetch_decode.md R143): slot `k` of `F` to slot `k` of `Dc`, and the stamp. -/
def State.decodeOne (s : State) : State :=
  { s with
    recs := s.recs.modify s.focus.handle (Record.stamp .Dc s.currentCycle)
    latchDc := s.latchDc.set s.focus.slot (some s.focus.handle)
    latchF := s.latchF.set s.focus.slot none }

/-- The record of the instruction whose rename completes (43_rename.md R152, R158). -/
def State.completeRename (src1 src2 : Operand) (physDst : Nat) (s : State) : List Record :=
  s.recs.modify s.focus.handle fun r =>
    { r with
      physSrc1 := some (src1.resolve s.map)
      physSrc2 := some (src2.resolve s.map)
      physDst := some physDst
      cycle := r.cycle.put .R s.currentCycle }

/-- Rename of one slot (43_rename.md R152 to R158). The sources are resolved by the map table before the destination is
mapped. With the free list empty a producing instruction stalls: nothing is written for it, and the unset `cycle[R]`
keeps its slot pending (R154). -/
def State.renameOne (src1 src2 : Operand) (dst : Dest) (s : State) : State :=
  match dst with
  | .alloc d =>
    match s.free with
    | [] => s
    | p :: rest =>
      { s with
        recs := s.completeRename src1 src2 p
        map := s.map.set d p
        rdy := s.rdy.set p false
        free := rest }
  | .zero => { s with recs := s.completeRename src1 src2 0 }
  | .copy a => { s with recs := s.completeRename src1 src2 s.map[a] }

/-- The flag of a new issue-queue entry (44_dispatch.md R172). -/
def State.dispatchFlag (waits : Bool) (x : Option Src) (s : State) : Bool :=
  if waits then srcFlag s.rdy x else true

/-- Dispatch of one slot (44_dispatch.md R170 to R175): an issue-queue entry, a reorder-buffer entry, the next age, the
stamp, and the slot from `R` to `Di`. -/
def State.dispatchOne (waits : Bool) (s : State) : State :=
  { s with
    recs := s.recs.modify s.focus.handle (Record.stamp .Di s.currentCycle)
    iq := s.iq ++
      [{ instrRef := s.focus.handle
         src1Ready := s.dispatchFlag waits ((s.recs[s.focus.handle]?).bind Record.physSrc1)
         src2Ready := s.dispatchFlag waits ((s.recs[s.focus.handle]?).bind Record.physSrc2)
         age := s.iqAgeCounter }]
    rob := s.rob ++ [{ instrRef := s.focus.handle, ready := false, committed := false }]
    iqAgeCounter := s.iqAgeCounter + 1
    latchDi := s.latchDi.set s.focus.slot (some s.focus.handle)
    latchR := s.latchR.set s.focus.slot none }

/-- Issue of one selected entry (45_issue.md R184, R185): the stamp, out of the issue queue, into the writeback queue,
and a producing instruction's register on the bus. -/
def State.issueOne (producing : Bool) (s : State) : State :=
  { s with
    recs := s.recs.modify s.focus.handle (Record.stamp .IS s.currentCycle)
    iq := s.iq.filter fun e => e.instrRef != s.focus.handle
    wbq := s.wbq ++ [s.focus.handle]
    isTags := s.isTags ++ s.ownReg producing s.focus.handle }

/-- The reorder buffer with the entry of one handle marked ready (46_writeback.md R197). -/
def markReady (h : Nat) (rob : List ROBEntry) : List ROBEntry :=
  rob.map fun e => if e.instrRef = h then { e with ready := true } else e

/-- Writeback of the instruction at the head of the writeback queue (46_writeback.md R195 to R199). -/
def State.writebackOne (producing : Bool) (s : State) : State :=
  { s with
    recs := s.recs.modify s.focus.handle (Record.stamp .W s.currentCycle)
    wbq := s.wbq.tail
    rob := markReady s.focus.handle s.rob
    rdy := setReady s.rdy (s.ownReg producing s.focus.handle)
    wbTags := s.wbTags ++ s.ownReg producing s.focus.handle }

/-- Commit of the instruction at the head of the reorder buffer (47_commit.md R206, R207): a producing instruction's
OWN register goes back on the tail of the free list; the map table is left alone. -/
def State.commitOne (producing : Bool) (s : State) : State :=
  { s with
    recs := s.recs.modify s.focus.handle (Record.stamp .C s.currentCycle)
    free := s.free ++ s.ownReg producing s.focus.handle
    rdy := setReady s.rdy (s.ownReg producing s.focus.handle)
    rob := s.rob.tail
    completedCount := s.completedCount + 1 }

/-- What the stage at the cursor does with an instruction of the given roles: the life of 41_instruction_kinds.md R120,
one stage at a time. -/
def State.pass (i : Instr) (roles : Roles) (s : State) : State :=
  match s.focus.stage with
  | .F => s.fetchOne i
  | .Dc => s.decodeOne
  | .R => s.renameOne roles.src1 roles.src2 roles.dst
  | .Di => s.dispatchOne roles.waits
  | .IS => s.issueOne roles.dst.producing
  | .W => s.writebackOne roles.dst.producing
  | .C => s.commitOne roles.dst.producing

/-! ### Operations of a whole stage -/

/-- A latch is empty when all its slots are (40_tick_protocol.md R103). -/
def latchEmpty (l : List (Option Nat)) : Bool := l.all Option.isNone

/-- The instruction in a slot; none for an empty slot. -/
def slotAt (l : List (Option Nat)) (k : Nat) : Option Nat := (l[k]?).join

/-- The rename of an instruction has completed: its `cycle[R]` is set (10_state.md R32). -/
def State.renamed (h : Nat) (s : State) : Bool :=
  match s.recs[h]? with
  | some r => r.cycle.R.isSome
  | none => false

/-- The issue queue in ascending age (45_issue.md R181). -/
def byAge (iq : List IQEntry) : List IQEntry := iq.insertionSort fun a b => a.age ≤ b.age

/-- The entries that this tick's single select pass takes: the `W` oldest eligible ones (45_issue.md R181, R182). -/
def State.selected (s : State) : List IQEntry :=
  ((byAge s.iq).filter IQEntry.eligible).take s.config.issueWidth

/-- The wakeup pass over the entries that remain, with the tags of Writeback and of this select (45_issue.md R186). -/
def State.wakeup (s : State) : State :=
  { s with iq := s.iq.map (wakeEntry s.recs (s.wbTags ++ s.isTags)) }

/-- The advance `Dc → R` of a whole group, when `R` is empty (43_rename.md R150). -/
def State.takeGroup (s : State) : State :=
  if latchEmpty s.latchR then
    { s with latchR := s.latchDc, latchDc := emptyLatch s.config.issueWidth }
  else s

/-- Dispatch's first act: every slot of `Di` becomes empty (44_dispatch.md R170). -/
def State.clearDi (s : State) : State := { s with latchDi := emptyLatch s.config.issueWidth }

/-- The start of a tick: no tag on the wires (40_tick_protocol.md R100). -/
def State.clearWires (s : State) : State := { s with wbTags := [], isTags := [] }

/-- The end of a tick: the cycle number goes up by one (40_tick_protocol.md R102), the wires are discarded (10_state.md
R35), the cursor goes to rest. -/
def State.finish (s : State) : State :=
  { s with currentCycle := s.currentCycle + 1, wbTags := [], isTags := [], focus := .rest }

/-- `done`: every instruction has committed (10_state.md R34). -/
def State.done (s : State) : Bool := s.completedCount == s.config.trace.length

end Sys2Proof.Machine
end

