-- ==== Sys2Proof/Machine/Alu.lean ====
section
/-! DEFINITION. The meanings of kinds `R` and `I` (41_instruction_kinds.md R121, R122, and R125 for a zero destination). A
meaning is what the stage at the cursor does with the instruction; a register operand outside `0 … 31` has no meaning
(30_encoding.md R86). -/

namespace Sys2Proof.Machine

open Sys2Proof

/-- Kind `R`: `op1` destination, `op2` and `op3` renamed sources (R121). -/
def execRegOp (op1 op2 op3 : Int) (s : State) : Out :=
  match archReg op1, archReg op2, archReg op3 with
  | some d, some a, some b =>
    .next (s.pass (.regOp op1 op2 op3)
      { src1 := .reg a, src2 := .reg b, dst := .ofReg d, waits := true })
  | _, _, _ => .refused .registerOutOfRange

/-- Kind `I`: `op1` destination, `op2` renamed source, `op3` immediate (R122). -/
def execImmOp (op1 op2 op3 : Int) (s : State) : Out :=
  match archReg op1, archReg op2 with
  | some d, some a =>
    .next (s.pass (.immOp op1 op2 op3)
      { src1 := .reg a, src2 := .imm op3, dst := .ofReg d, waits := true })
  | _, _ => .refused .registerOutOfRange

end Sys2Proof.Machine
end

