-- ==== Sys2Proof/Machine/LoadStore.lean ====
section
/-! DEFINITION. The meanings of kinds `L` and `S` (41_instruction_kinds.md R123, R124, and R125 for a load with a zero
destination). Neither accesses any memory (20_memory.md R62). -/

namespace Sys2Proof.Machine

open Sys2Proof

/-- Kind `L`: `op1` destination, `op2` immediate, `op3` renamed source (R123). -/
def execLoad (op1 op2 op3 : Int) (s : State) : Out :=
  match archReg op1, archReg op3 with
  | some d, some b =>
    .next (s.pass (.load op1 op2 op3)
      { src1 := .imm op2, src2 := .reg b, dst := .ofReg d, waits := true })
  | _, _ => .refused .registerOutOfRange

/-- Kind `S`: `op1` a source whose mapping is copied, `op2` immediate, `op3` renamed source; no destination, no register
taken, both flags true at Dispatch (R124). -/
def execStore (op1 op2 op3 : Int) (s : State) : Out :=
  match archReg op1, archReg op3 with
  | some a, some b =>
    .next (s.pass (.store op1 op2 op3)
      { src1 := .imm op2, src2 := .reg b, dst := .copy a, waits := false })
  | _, _ => .refused .registerOutOfRange

end Sys2Proof.Machine
end

