-- ==== Sys2Proof/Machine/Dispatch.lean ====
section
/-! DEFINITION. exec: one arm per constructor of Instr. -/

namespace Sys2Proof.Machine

open Sys2Proof

def exec (i : Instr) (s : State) : Host.Outcome State Fault Refusal :=
  match i with
  | .regOp op1 op2 op3 => Sys2Proof.Machine.execRegOp op1 op2 op3 s
  | .immOp op1 op2 op3 => Sys2Proof.Machine.execImmOp op1 op2 op3 s
  | .load op1 op2 op3 => Sys2Proof.Machine.execLoad op1 op2 op3 s
  | .store op1 op2 op3 => Sys2Proof.Machine.execStore op1 op2 op3 s

end Sys2Proof.Machine
end

