-- ==== Sys2Proof/Machine/Tick.lean ====
section
/-! DEFINITION. The seven stage procedures (42_fetch_decode.md to 47_commit.md), the tick that composes them
(40_tick_protocol.md R100), and the clock edge. A stage procedure finds the instructions it handles and runs `exec` on
each of them, with the cursor on it. -/

namespace Sys2Proof.Machine

open Sys2Proof

/-- One stage handles the instruction of one handle: its record names the instruction, `exec` its effect. -/
def runAt (st : Stage) (slot h : Nat) (s : State) : Out :=
  match s.recs[h]? with
  | some r => exec r.instr (s.focusOn st slot h)
  | none => .refused .danglingHandle

/-- The walk of Commit, at most `n` retirements (47_commit.md R205, R206, R208). -/
def commitWalk : Nat → State → Out
  | 0, s => .next s
  | n + 1, s =>
    match s.rob with
    | [] => .next s
    | e :: _ => if e.ready then andThen (runAt .C 0 e.instrRef s) (commitWalk n) else .next s

/-- The Commit procedure (47_commit.md R209). -/
def commitStage (s : State) : Out := commitWalk s.config.issueWidth s

/-- The drain of Writeback, at most `n` instructions from the head of the queue (46_writeback.md R195). -/
def writebackDrain : Nat → State → Out
  | 0, s => .next s
  | n + 1, s =>
    match s.wbq with
    | [] => .next s
    | h :: _ => andThen (runAt .W 0 h s) (writebackDrain n)

/-- The Writeback procedure (46_writeback.md R200). -/
def writebackStage (s : State) : Out := writebackDrain s.config.issueWidth s

/-- Issue of the selected entries, oldest first (45_issue.md R184). -/
def issueEach : List IQEntry → State → Out
  | [], s => .next s
  | e :: es, s => andThen (runAt .IS 0 e.instrRef s) (issueEach es)

/-- The Issue procedure: one select pass, then the wakeup pass (45_issue.md R187). -/
def issueStage (s : State) : Out := andThen (issueEach s.selected s) fun t => .next t.wakeup

/-- Dispatch of the renamed slots among the `n` slots from `k` on; empty and pending slots are passed over
(44_dispatch.md R170). -/
def dispatchSlots : Nat → Nat → State → Out
  | 0, _, s => .next s
  | n + 1, k, s =>
    match slotAt s.latchR k with
    | none => dispatchSlots n (k + 1) s
    | some h =>
      if s.renamed h then andThen (runAt .Di k h s) (dispatchSlots n (k + 1))
      else dispatchSlots n (k + 1) s

/-- The Dispatch procedure (44_dispatch.md R171). -/
def dispatchStage (s : State) : Out := dispatchSlots s.config.issueWidth 0 s.clearDi

/-- Rename of the pending slots among the `n` slots from `k` on, up to the first that stalls: a slot still pending after
its turn is a stall, and a stall fences the slots to its right (43_rename.md R151, R154, R155). -/
def renameSlots : Nat → Nat → State → Out
  | 0, _, s => .next s
  | n + 1, k, s =>
    match slotAt s.latchR k with
    | none => renameSlots n (k + 1) s
    | some h =>
      if s.renamed h then renameSlots n (k + 1) s
      else andThen (runAt .R k h s) fun t =>
        if t.renamed h then renameSlots n (k + 1) t else .next t

/-- The Rename procedure (43_rename.md R159). -/
def renameStage (s : State) : Out := renameSlots s.config.issueWidth 0 s.takeGroup

/-- Decode of the occupied slots among the `n` slots from `k` on. -/
def decodeSlots : Nat → Nat → State → Out
  | 0, _, s => .next s
  | n + 1, k, s =>
    match slotAt s.latchF k with
    | none => decodeSlots n (k + 1) s
    | some h => andThen (runAt .Dc k h s) (decodeSlots n (k + 1))

/-- The Decode procedure: the group moves when `Dc` is empty, else nothing happens (42_fetch_decode.md R143, R144). -/
def decodeStage (s : State) : Out :=
  if latchEmpty s.latchDc then decodeSlots s.config.issueWidth 0 s else .next s

/-- Fetch into the `n` slots from `k` on, while the trace lasts (42_fetch_decode.md R140, R142). -/
def fetchSlots : Nat → Nat → State → Out
  | 0, _, s => .next s
  | n + 1, k, s =>
    match s.config.trace[s.fetchOffset]? with
    | none => .next s
    | some i => andThen (exec i (s.focusOn .F k s.fetchOffset)) (fetchSlots n (k + 1))

/-- The Fetch procedure: a group is fetched when `F` is empty, else nothing happens (R140, R141). -/
def fetchStage (s : State) : Out :=
  if latchEmpty s.latchF then fetchSlots s.config.issueWidth 0 s else .next s

/-- The six stages that run before Fetch in a tick. -/
def beforeFetch (s : State) : Out :=
  andThen (commitStage s.clearWires) fun s₁ =>
  andThen (writebackStage s₁) fun s₂ =>
  andThen (issueStage s₂) fun s₃ =>
  andThen (dispatchStage s₃) fun s₄ =>
  andThen (renameStage s₄) fun s₅ =>
  decodeStage s₅

/-- One tick: commit, writeback, issue, dispatch, rename, decode, fetch, and the cycle number (40_tick_protocol.md
R100, R102). -/
def tick (s : State) : Out :=
  andThen (beforeFetch s) fun t => andThen (fetchStage t) fun u => .next u.finish

/-- Why a configuration has no run, if it has none (00_scope.md R6, 30_encoding.md R86, 70_reset_and_hazards.md R262). -/
def configRefusal (c : Config) : Option Refusal :=
  if c.widthsLegal then (if c.traceWellFormed then none else some .registerOutOfRange)
  else some .illegalConfiguration

/-- A clock edge without reset: a tick while the engine is not done, nothing once it is (40_tick_protocol.md R107,
70_reset_and_hazards.md R260, R264). A configuration without meaning has no run. -/
def advance (s : State) : Out :=
  match configRefusal s.config with
  | some r => .refused r
  | none => if s.done then .next s else tick s

end Sys2Proof.Machine
end

