-- ==== Sys2Proof/Machine/Boundary.lean ====
section
/-! DEFINITION. The boundary of the engine: how a run begins (70_reset_and_hazards.md R260, R262; 60_exceptions.md R240 to
R242, R246), the clock edge with a reset, the placing of one instruction for the very next step, and the rows the
reporter reads when the engine is done (30_encoding.md R90). -/

namespace Sys2Proof.Machine

open Sys2Proof

/-- Reset for the configuration presented (70_reset_and_hazards.md R260): the state of 10_state.md R36, or no run for a
configuration without meaning (R6, R262). -/
def resetFor (c : Config) : Out :=
  match configRefusal c with
  | some r => .refused r
  | none => .next (State.init c)

/-- One rising edge of `clk` (R260): with `rst` the configuration presented is taken over, whatever the state; without
it the engine advances. -/
def clockEdge (rst : Option Config) (s : State) : Out :=
  match rst with
  | some c => resetFor c
  | none => advance s

/-- One line of the input after the first: a kind character and three integers (30_encoding.md R82). -/
structure Line where
  kind : Char
  op1 : Int
  op2 : Int
  op3 : Int
  deriving DecidableEq, Repr

/-- What the trace parser is given. How text is split into numbers is the parser's own (91_not_in_source.md N5). -/
inductive Input where
  /-- The input path cannot be opened. -/
  | missing
  /-- The two integers `P, W` of the first line, if it yields two, and the lines after it (30_encoding.md R81, R82). -/
  | lines (header : Option (Int × Int)) (records : List Line)
  deriving DecidableEq, Repr

/-- The kind a letter names (R82); none for any other character (R87). That a lower-case letter is such another character
is a DESIGN CHOICE (notes/assumptions/17.md): 91_not_in_source.md N5 leaves it open. -/
def kindOfLetter (c : Char) : Option Kind :=
  if c = 'R' then some .R
  else if c = 'I' then some .I
  else if c = 'L' then some .L
  else if c = 'S' then some .S
  else none

/-- The record of a line; none, so dropped, for an unknown kind (30_encoding.md R87, 60_exceptions.md R242). -/
def Line.record (l : Line) : Option Instr := (kindOfLetter l.kind).map fun k => k.record l.op1 l.op2 l.op3

/-- The start of a run from an input: E1 before E2 before the records (60_exceptions.md R240, R241, R246). -/
def boot : Input → Out
  | .missing => .refused .inputNotFound
  | .lines none _ => .refused .malformedHeader
  | .lines (some (p, w)) records =>
    if 0 < p ∧ 0 < w then
      resetFor { issueWidth := w.toNat, physRegCount := p.toNat, trace := records.filterMap Line.record }
    else .refused .malformedHeader

/-- One output row: the fetch index and the seven stamps `F, Dc, R, Di, IS, W, C` (30_encoding.md R90). None while one of
them is unset. -/
def Record.row (r : Record) : Option (Nat × List Nat) :=
  match r.fetchIndex, r.cycle.F, r.cycle.Dc, r.cycle.R, r.cycle.Di, r.cycle.IS, r.cycle.W, r.cycle.C with
  | some i, some f, some dc, some rn, some di, some is, some w, some c => some (i, [f, dc, rn, di, is, w, c])
  | _, _, _, _, _, _, _, _ => none

/-- What the result reporter reads: every record's row in fetch order, once the engine is done (R90). Before that there
is no output, and no number for an unset stamp (93_implementation_defined.md U16, U17). -/
def State.report (s : State) : Option (List (Nat × List Nat)) :=
  if s.done then s.recs.mapM Record.row else none

/-- The state with one record placed as the next and last of the trace, and latch `F` free to take it, so that the
very next tick fetches it (notes/assumptions/4.md). A word of unknown kind leaves no record (30_encoding.md R87). -/
def State.placeNext (i : Option Instr) (s : State) : State :=
  { s with
    config := { s.config with trace := s.config.trace.take s.fetchOffset ++ i.toList }
    recs := s.recs.take s.fetchOffset ++ i.toList.map Record.fresh
    latchF := emptyLatch s.config.issueWidth }

end Sys2Proof.Machine
end

