-- ==== Sys2Proof/Machine/Step.lean ====
section
/-! DEFINITION. The step of the machine: one clock edge without reset, that is one tick (00_scope.md R7, R8;
40_tick_protocol.md R107). -/

namespace Sys2Proof.Machine

open Sys2Proof

/-- One step. -/
def step (s : State) : Host.Outcome State Fault Refusal := advance s

/-- The state whose very next step fetches the record of a table word. An operand out of range is kept as it is, so that
the step refuses it. -/
def State.withFetchWord (s : State) (_nbits w : Nat) : State := s.placeNext (decodeFields (BitVec.ofNat 32 w))

end Sys2Proof.Machine
end

