-- ==== Sys2Proof/Safety.lean ====
section
/-! DEFINITION. What holds of the state at every tick boundary of a run (48_invariants.md), as decidable predicates in
layers: shape, order and place, stamps, registers, mapping, dependences. Each layer speaks of one aspect; together they
are `Inv`. -/

namespace Sys2Proof.Machine

open Sys2Proof

/-! ### Reading the record table -/

/-- The stamp `cycle[S]` of instruction `j`, none when it is unset or there is no such record. -/
def State.stampOf (s : State) (st : Stage) (j : Nat) : Option Nat := (s.recs[j]?).bind fun r => r.cycle.get st

/-- Instruction `j` has completed stage `S`. -/
abbrev State.passed (s : State) (st : Stage) (j : Nat) : Prop := (s.stampOf st j).isSome = true

/-- `produces(j)` (10_state.md R23); false where there is no record. -/
def State.producesAt (s : State) (j : Nat) : Bool := ((s.recs[j]?).map fun r => r.instr.produces).getD false

/-- In flight: renamed and not committed (48_invariants.md R216). -/
def State.inFlight (s : State) (j : Nat) : Bool := (s.stampOf .R j).isSome && (s.stampOf .C j).isNone

/-- Instruction `j` is an in-flight producing instruction whose destination is `p` (R216). -/
def State.holds (s : State) (j p : Nat) : Bool := s.producesAt j && s.inFlight j && s.physDstOf j == some p

/-- The number of records: `N` in every state of the right shape. -/
abbrev State.count (s : State) : Nat := s.recs.length

/-- The instructions in a latch, left to right. -/
def occupied (l : List (Option Nat)) : List Nat := l.reduceOption

/-- The occupied slots are the leftmost ones (R221, latches `F` and `Dc`). -/
abbrev leftPacked (l : List (Option Nat)) : Prop :=
  l = (occupied l).map some ++ emptyLatch (l.length - (occupied l).length)

/-- The occupied slots are contiguous (R221, latch `R`). -/
abbrev contiguous (l : List (Option Nat)) : Prop := leftPacked (l.dropWhile Option.isNone)

/-! ### Layer 1: shape -/

/-- The configuration is one that has runs, the tables have the sizes it gives them, the records are those of the trace
(R20, R21, R36), and the wires and the cursor are at rest (R35). -/
structure Shaped (s : State) : Prop where
  legal : s.config.legal = true
  fromTrace : s.recs.map Record.instr = s.config.trace
  rdyLength : s.rdy.length = s.config.physRegCount
  latchFLength : s.latchF.length = s.config.issueWidth
  latchDcLength : s.latchDc.length = s.config.issueWidth
  latchRLength : s.latchR.length = s.config.issueWidth
  latchDiLength : s.latchDi.length = s.config.issueWidth
  noWbTags : s.wbTags = []
  noIsTags : s.isTags = []
  atRest : s.focus = Focus.rest

/-! ### Layer 2: program order, and where every instruction is -/

/-- `0 ≤ completed_count ≤ iq_age_counter ≤ fetch_offset ≤ N` (R234). -/
abbrev CountersOrdered (s : State) : Prop :=
  s.completedCount ≤ s.iqAgeCounter ∧ s.iqAgeCounter ≤ s.fetchOffset ∧ s.fetchOffset ≤ s.count

/-- The ROB holds exactly the dispatched and not yet committed instructions, in order (R224); no resident entry is
committed, and an entry is ready exactly when its instruction has written back (R223). -/
abbrev RobOrdered (s : State) : Prop :=
  s.rob.map ROBEntry.instrRef = List.range' s.completedCount (s.iqAgeCounter - s.completedCount) ∧
  ∀ e ∈ s.rob, e.committed = false ∧ (e.ready = true ↔ s.passed .W e.instrRef)

/-- Read in the order `R`, `Dc`, `F` the latches hold exactly the fetched and not yet dispatched instructions, packed as
R221 says. -/
abbrev LatchesOrdered (s : State) : Prop :=
  occupied s.latchR ++ occupied s.latchDc ++ occupied s.latchF
    = List.range' s.iqAgeCounter (s.fetchOffset - s.iqAgeCounter) ∧
  leftPacked s.latchF ∧ leftPacked s.latchDc ∧ contiguous s.latchR

/-- The issue queue stands in ascending age, and the entry of instruction `i` has age `i` (R175, R234); the writeback
queue stands in ascending age and holds at most `W` (R227). -/
abbrev QueuesOrdered (s : State) : Prop :=
  (s.iq.map IQEntry.age).Pairwise (· < ·) ∧ (∀ e ∈ s.iq, e.age = e.instrRef) ∧
  s.wbq.Pairwise (· < ·) ∧ s.wbq.length ≤ s.config.issueWidth

/-- A stage is passed only after the one before it (R223, R225). -/
abbrev StagesNested (s : State) (j : Nat) : Prop :=
  (s.passed .Di j → s.passed .R j) ∧ (s.passed .R j → s.passed .Dc j) ∧ (s.passed .Dc j → s.passed .F j) ∧
  (s.passed .IS j → s.passed .Di j) ∧ (s.passed .W j → s.passed .IS j) ∧ (s.passed .C j → s.passed .W j)

/-- The counters and the latches say how far the front end has come with instruction `j` (R221, R223, R234). -/
abbrev PlacedInFront (s : State) (j : Nat) : Prop :=
  (s.passed .F j ↔ j < s.fetchOffset) ∧
  (s.passed .Dc j ↔ j < s.fetchOffset ∧ j ∉ occupied s.latchF) ∧
  (s.passed .R j → j < s.iqAgeCounter ∨ j ∈ occupied s.latchR) ∧
  (s.passed .Di j ↔ j < s.iqAgeCounter) ∧
  (s.passed .C j ↔ j < s.completedCount) ∧
  (s.recs[j]?).bind Record.fetchIndex = if j < s.fetchOffset then some j else none

/-- Instruction `j` is in the issue queue from its dispatch to its issue, in the writeback queue from its issue to its
writeback (R223). -/
abbrev PlacedInQueues (s : State) (j : Nat) : Prop :=
  (j ∈ s.iq.map IQEntry.instrRef ↔ s.passed .Di j ∧ ¬ s.passed .IS j) ∧
  (j ∈ s.wbq ↔ s.passed .IS j ∧ ¬ s.passed .W j)

/-- Renames complete in program order (R222). -/
abbrev RenamedInOrder (s : State) : Prop :=
  ∀ j < s.count, s.passed .R j → ∀ i < j, s.passed .R i

/-- The queues name fetched instructions only (R38). -/
abbrev HandlesInRange (s : State) : Prop :=
  (∀ e ∈ s.iq, e.instrRef < s.count) ∧ (∀ h ∈ s.wbq, h < s.count)

/-- Program order and places (R221 to R224, R227, R234). -/
structure Ordered (s : State) : Prop where
  counters : CountersOrdered s
  rob : RobOrdered s
  latches : LatchesOrdered s
  queues : QueuesOrdered s
  handles : HandlesInRange s
  renames : RenamedInOrder s
  nested : ∀ j < s.count, StagesNested s j
  front : ∀ j < s.count, PlacedInFront s j
  inQueues : ∀ j < s.count, PlacedInQueues s j

/-! ### Layer 3: stamps -/

/-- Stage `y` was passed later than stage `x`, wherever both stamps are set. -/
abbrev LaterBy (s : State) (j : Nat) (x y : Stage) : Prop :=
  ∀ tx ∈ s.stampOf x j, ∀ ty ∈ s.stampOf y j, tx < ty

/-- Stage `y` was passed in the tick after stage `x`, wherever both stamps are set. -/
abbrev NextTick (s : State) (j : Nat) (x y : Stage) : Prop :=
  ∀ tx ∈ s.stampOf x j, ∀ ty ∈ s.stampOf y j, ty = tx + 1

/-- The stage monotonicity of R225 for one instruction. -/
abbrev StampsMonotone (s : State) (j : Nat) : Prop :=
  LaterBy s j .F .Dc ∧ LaterBy s j .Dc .R ∧ NextTick s j .R .Di ∧
  LaterBy s j .Di .IS ∧ NextTick s j .IS .W ∧ LaterBy s j .W .C

/-- Every stamp is the number of a tick that has been taken; a renamed slot waits for Dispatch for one boundary only, an
issued instruction for Writeback likewise (R177, R201). -/
abbrev StampsPast (s : State) (j : Nat) : Prop :=
  (∀ st ∈ [Stage.F, .Dc, .R, .Di, .IS, .W, .C], ∀ t ∈ s.stampOf st j, t < s.currentCycle) ∧
  (∀ t ∈ s.stampOf .R j, ¬ s.passed .Di j → t + 1 = s.currentCycle) ∧
  (∀ t ∈ s.stampOf .IS j, ¬ s.passed .W j → t + 1 = s.currentCycle)

/-- Program order per stage (R222). -/
abbrev StampsInOrder (s : State) : Prop :=
  ∀ st ∈ [Stage.F, .Dc, .R, .Di, .C], ∀ j < s.count, ∀ i < j,
    ∀ tj ∈ s.stampOf st j, ∃ ti ∈ s.stampOf st i, ti ≤ tj

/-- How many instructions passed stage `st` in tick `t`. -/
def State.widthUsed (s : State) (st : Stage) (t : Nat) : Nat :=
  (s.recs.filter fun r => r.cycle.get st == some t).length

/-- "No more than W instructions advance any given stage in any cycle" (R230). -/
abbrev WidthBound (s : State) : Prop :=
  ∀ st ∈ [Stage.F, .Dc, .R, .Di, .IS, .W, .C], ∀ t < s.currentCycle, s.widthUsed st t ≤ s.config.issueWidth

/-- Latch `Di` holds exactly the instructions dispatched in the tick just ended, in program order (10_state.md R32). -/
abbrev DiHoldsLastDispatched (s : State) : Prop :=
  (occupied s.latchDi).Pairwise (· < ·) ∧ (∀ j ∈ occupied s.latchDi, j < s.count) ∧
  ∀ j < s.count, j ∈ occupied s.latchDi ↔ ∃ t ∈ s.stampOf .Di j, t + 1 = s.currentCycle

/-- Once the engine is done, the cycle number is one more than the last commit's; with no record at all it is still 0
(R229). -/
abbrev EndsWithTheLastCommit (s : State) : Prop :=
  (s.count = 0 → s.currentCycle = 0) ∧
  (s.done = true → ∀ j < s.count, j + 1 = s.count → ∃ t ∈ s.stampOf .C j, t + 1 = s.currentCycle)

/-- Stamps (R222, R225, R229, R230). -/
structure Timed (s : State) : Prop where
  monotone : ∀ j < s.count, StampsMonotone s j
  past : ∀ j < s.count, StampsPast s j
  inOrder : StampsInOrder s
  width : WidthBound s
  dispatched : DiHoldsLastDispatched s
  ended : EndsWithTheLastCommit s

/-! ### Layer 4: registers -/

/-- The renamed fields are filled exactly when the rename has completed; a producing instruction then has a register of
`32 … P-1` (R216). -/
abbrev FieldsFilled (s : State) (j : Nat) : Prop :=
  ∀ r ∈ s.recs[j]?,
    (r.physDst.isSome = r.cycle.R.isSome) ∧ (r.physSrc1.isSome = r.cycle.R.isSome) ∧
    (r.physSrc2.isSome = r.cycle.R.isSome) ∧
    (r.instr.produces = true → ∀ p ∈ r.physDst, archRegCount ≤ p ∧ p < s.config.physRegCount)

/-- No duplicate in the free list, nothing below 32 in it, and nothing that is no physical register (R216, R217). -/
abbrev FreeListSound (s : State) : Prop :=
  s.free.Nodup ∧ ∀ p ∈ s.free, archRegCount ≤ p ∧ p < s.config.physRegCount

/-- Every register of `32 … P-1` is on the free list or held by an in-flight producing instruction (R216). -/
abbrev RegistersCovered (s : State) : Prop :=
  ∀ p < s.config.physRegCount, archRegCount ≤ p → p ∈ s.free ∨ ∃ j < s.count, s.holds j p = true

/-- No register is both free and held (R216). -/
abbrev FreeNotHeld (s : State) : Prop := ∀ p ∈ s.free, ∀ j < s.count, s.holds j p = false

/-- No register is held twice (R216). -/
abbrev HeldOnce (s : State) : Prop :=
  ∀ i < s.count, ∀ j < s.count, ∀ p < s.config.physRegCount, s.holds i p = true ∧ s.holds j p = true → i = j

/-- A register is not ready exactly when a producing instruction that holds it has been renamed and has not written
back (R218). -/
abbrev ReadyTableSound (s : State) : Prop :=
  ∀ p < s.config.physRegCount,
    readyBit s.rdy p = false ↔ ∃ j < s.count, s.holds j p = true ∧ ¬ s.passed .W j

/-- Registers (R216 to R218). -/
structure RegistersSound (s : State) : Prop where
  filled : ∀ j < s.count, FieldsFilled s j
  freeList : FreeListSound s
  covered : RegistersCovered s
  freeNotHeld : FreeNotHeld s
  heldOnce : HeldOnce s
  ready : ReadyTableSound s

/-! ### Layer 5: the mapping -/

/-- A renamed producing record with destination `a`. -/
def Record.mapsTo (a : Nat) (r : Record) : Bool :=
  r.cycle.R.isSome && r.instr.produces && r.instr.op1 == (a : Int)

/-- The register that the youngest of the given records that writes `a` holds; `a` itself when none does (R220). -/
def mappingAfter (a : Nat) (rs : List Record) : Nat :=
  ((rs.filter (Record.mapsTo a)).getLast?.bind Record.physDst).getD a

/-- The map table image (R220); `map[0] = 0` is the case `a = 0` (R219). -/
abbrev MapSound (s : State) : Prop := ∀ a : Fin 32, s.map[a] = mappingAfter a s.recs

/-! ### Layer 6: dependences -/

/-- The youngest producing instruction older than `j` with destination `a`, if there is one (R226). -/
def State.producerBefore (s : State) (j a : Nat) : Option Nat :=
  (List.range j).reverse.find? fun i =>
    ((s.recs[i]?).map fun r => r.instr.produces && r.instr.op1 == (a : Int)).getD false

/-- The renamed form of a source position. -/
def Record.source (r : Record) : Bool → Option Src
  | true => r.physSrc1
  | false => r.physSrc2

/-- The ready flag of a source position. -/
def IQEntry.flag (e : IQEntry) : Bool → Bool
  | true => e.src1Ready
  | false => e.src2Ready

/-- A renamed source names the register of the youngest older producer, or the register of reset; an immediate is passed
on (R152, R226). -/
abbrev SourceRenamed (s : State) (j : Nat) (r : Record) (pos : Bool) : Prop :=
  r.source pos = match r.instr.sourceReg pos with
    | none => some (.imm (r.instr.sourceImm pos))
    | some a =>
      match s.producerBefore j a with
      | none => some (.reg a)
      | some q => (s.physDstOf q).map Src.reg

/-- An instruction issues at least one tick after the producer `q` of one of its sources (R226). -/
abbrev IssuedAfter (s : State) (j q : Nat) : Prop :=
  ∀ t ∈ s.stampOf .IS j, ∃ u ∈ s.stampOf .IS q, u + 1 ≤ t

/-- Instruction `j` is in the issue queue with its ready flag of a source position true. -/
def State.flagRaised (s : State) (j : Nat) (pos : Bool) : Bool := s.iq.any fun e => e.instrRef == j && e.flag pos

/-- A ready flag that is true says that the producer `q` has issued. -/
abbrev FlagTruthful (s : State) (j q : Nat) (pos : Bool) : Prop := s.flagRaised j pos = true → s.passed .IS q

/-- Read-after-write order for one source position of an instruction other than a store (R226). -/
abbrev WaitsForProducer (s : State) (j : Nat) (r : Record) (pos : Bool) : Prop :=
  ∀ a ∈ r.instr.sourceReg pos, ∀ q ∈ s.producerBefore j a, IssuedAfter s j q ∧ FlagTruthful s j q pos

/-- Every completed rename has renamed its sources so (R152, R226). -/
abbrev SourcesRenamed (s : State) : Prop :=
  ∀ j < s.count, ∀ r ∈ s.recs[j]?, r.cycle.R.isSome = true → ∀ pos ∈ [true, false], SourceRenamed s j r pos

/-- Read-after-write order (R226). -/
abbrev ReadAfterWrite (s : State) : Prop :=
  ∀ j < s.count, ∀ r ∈ s.recs[j]?, r.instr.kind ≠ .S → ∀ pos ∈ [true, false], WaitsForProducer s j r pos

/-- Everything the spec says of the state at a tick boundary. -/
structure Inv (s : State) : Prop where
  shaped : Shaped s
  ordered : Ordered s
  timed : Timed s
  registers : RegistersSound s
  mapped : MapSound s
  sources : SourcesRenamed s
  dependences : ReadAfterWrite s

end Sys2Proof.Machine
end

