-- ==== Sys2Proof/Certificates/Slice0/Obligations.lean ====
section
/-! DEFINITION. The statements for the provers. `exec` is the meaning of one instruction at the stage the cursor names;
a stage procedure runs it on the instructions it handles; `step` is one tick. -/

open Sys2Proof Sys2Proof.Machine

/-! ### Encoding -/

/-- Every well-formed record that REC32 can write is read back from its four bytes, whatever follows them. REC32 is the
spec's own encoding (92_eei_decisions.md D2, D3), so the basis is derived. -/
def Obligations.DecodeUndoesEncode : Prop :=
  ∀ (i : Instr) (rest : List Byte), i.wellFormed = true → i.encodable = true →
    decode (encode i ++ rest) = (.record i, rest)

/-- A word that decodes to a record is that record's own encoding: no bit of it is dropped. -/
def Obligations.EncodeUndoesDecode : Prop :=
  ∀ (w : Word) (i : Instr), decodeWord w = .record i →
    i.wellFormed = true ∧ i.encodable = true ∧ encodeWord i = w ∧ bytesOfWord w = encode i

/-- A word of unknown kind leaves no record, and the trace is what it would be without the word (30_encoding.md section 5;
the place of the skip is 92_eei_decisions.md D22). -/
def Obligations.UnknownKindIsDropped : Prop :=
  ∀ w : Word, kindField w ≠ 0x52 → kindField w ≠ 0x49 → kindField w ≠ 0x4C → kindField w ≠ 0x53 →
    decodeWord w = .unknownKind (kindField w) ∧
    ∀ us vs : List Word, traceOfWords (us ++ w :: vs) = traceOfWords (us ++ vs)

/-- A word of a known kind is a record exactly when the top three bits of each register field are 0. A word of a known
kind that fails this decodes to an out-of-range record, which is ill formed, and a sequence that holds such a word has no
trace (30_encoding.md section 4; the refusal is 92_eei_decisions.md D25). -/
def Obligations.RegisterFieldsAreBelow32 : Prop :=
  ∀ w : Word,
    (kindField w = 0x52 → ((∃ i, decodeWord w = .record i) ↔
      w.extractLsb' 21 3 = 0 ∧ w.extractLsb' 13 3 = 0 ∧ w.extractLsb' 5 3 = 0)) ∧
    (kindField w = 0x49 → ((∃ i, decodeWord w = .record i) ↔
      w.extractLsb' 21 3 = 0 ∧ w.extractLsb' 13 3 = 0)) ∧
    (kindField w = 0x4C → ((∃ i, decodeWord w = .record i) ↔
      w.extractLsb' 21 3 = 0 ∧ w.extractLsb' 5 3 = 0)) ∧
    (kindField w = 0x53 → ((∃ i, decodeWord w = .record i) ↔
      w.extractLsb' 21 3 = 0 ∧ w.extractLsb' 5 3 = 0)) ∧
    (kindField w ∈ [0x52, 0x49, 0x4C, 0x53] →
      (w.extractLsb' 21 3 ≠ 0 ∨
        (kindField w ∈ [0x52, 0x49] ∧ w.extractLsb' 13 3 ≠ 0) ∨
        (kindField w ∈ [0x52, 0x4C, 0x53] ∧ w.extractLsb' 5 3 ≠ 0)) →
      ∃ i, decodeWord w = .registerOutOfRange i ∧ i.wellFormed = false ∧
        ∀ us vs : List Word, traceOfWords (us ++ w :: vs) = none)

/-- Six words of 95_test_vectors.md section 2, one or two of each kind. -/
def Obligations.SpecWordsDecode : Prop :=
  decodeWord 0x52010203 = .record (.regOp 1 2 3) ∧
  decodeWord 0x490203FF = .record (.immOp 2 3 (-1)) ∧
  decodeWord 0x4C058006 = .record (.load 5 (-128) 6) ∧
  decodeWord 0x53077F08 = .record (.store 7 127 8) ∧
  decodeWord 0x72010203 = .unknownKind 0x72 ∧
  decodeWord 0x4C01FF20 = .registerOutOfRange (.load 1 (-1) 32)

/-! ### Reset and the boundary -/

/-- A clock edge with reset gives, from any state, the reset state of the configuration presented (10_state.md section 7).
The reset input is 92_eei_decisions.md D1 and D33, the empty queues and zero counters are D30. -/
def Obligations.ResetGivesTheResetState : Prop :=
  ∀ (c : Config) (s : State), c.legal = true →
    ∃ t, clockEdge (some c) s = .next t ∧ t.config = c ∧
      (∀ a : Fin 32, t.map[a] = a.val) ∧
      t.rdy.length = c.physRegCount ∧ (∀ p < c.physRegCount, readyBit t.rdy p = true) ∧
      t.free = List.range' 32 (c.physRegCount - 32) ∧
      t.iq = [] ∧ t.rob = [] ∧ t.wbq = [] ∧
      (∀ l ∈ [t.latchF, t.latchDc, t.latchR, t.latchDi],
        l.length = c.issueWidth ∧ ∀ k, slotAt l k = none) ∧
      t.currentCycle = 0 ∧ t.fetchOffset = 0 ∧ t.iqAgeCounter = 0 ∧ t.completedCount = 0 ∧
      t.recs.length = c.trace.length ∧
      ∀ j < c.trace.length, ∃ r, t.recs[j]? = some r ∧ c.trace[j]? = some r.instr ∧
        r.physDst = none ∧ r.physSrc1 = none ∧ r.physSrc2 = none ∧ r.fetchIndex = none ∧
        ∀ st, t.stampOf st j = none

/-- A configuration with `W = 0` or `P ≤ 32`, or with a register operand out of range in its trace, has no run: neither a
reset nor a step has a next state (00_scope.md section 3, 92_eei_decisions.md D24, D25: the spec's choice; the names of
the refusals are log entries 6 and 7). -/
def Obligations.IllegalConfigurationsHaveNoRun : Prop :=
  ∀ (c : Config) (s : State),
    (c.issueWidth = 0 ∨ c.physRegCount ≤ 32 →
      clockEdge (some c) s = .refused .illegalConfiguration ∧
      (s.config = c → step s = .refused .illegalConfiguration)) ∧
    (1 ≤ c.issueWidth → 32 < c.physRegCount → (∃ i ∈ c.trace, i.wellFormed = false) →
      clockEdge (some c) s = .refused .registerOutOfRange ∧
      (s.config = c → step s = .refused .registerOutOfRange))

/-- The boundary errors: a missing input and a malformed header start no run, in this order; a line of unknown kind is
skipped; two positive integers start the run they name (60_exceptions.md section 1; the order is 92_eei_decisions.md
D28, the skip before Fetch D22; that a lower-case letter is an unknown kind is the model's own, log entry 17). -/
def Obligations.BoundaryErrorsStartNoRun : Prop :=
  boot .missing = .refused .inputNotFound ∧
  (∀ ls, boot (.lines none ls) = .refused .malformedHeader) ∧
  (∀ p w ls, p ≤ 0 ∨ w ≤ 0 → boot (.lines (some (p, w)) ls) = .refused .malformedHeader) ∧
  (∀ h us l vs, kindOfLetter l.kind = none → boot (.lines h (us ++ l :: vs)) = boot (.lines h (us ++ vs))) ∧
  ∀ p w ls, 0 < p → 0 < w →
    boot (.lines (some (p, w)) ls) =
      resetFor { issueWidth := w.toNat, physRegCount := p.toNat, trace := ls.filterMap Line.record }

/-- Once every instruction has committed no tick changes anything (70_reset_and_hazards.md section 1, 92_eei_decisions.md
D23: the spec's choice). -/
def Obligations.DoneIsFinal : Prop :=
  ∀ s : State, s.config.legal = true → s.completedCount = s.config.trace.length →
    step s = .next s ∧ clockEdge none s = .next s ∧ ∀ k, Host.Core.run core k s = .next s

/-! ### One instruction at one stage: result and frame -/

/-- Fetch of any record: its handle is `fetch_offset`, its renamed fields and stamps are unset but `cycle[F]`; nothing
else changes.
That a cursor in the state names stage, slot and handle is the model's own (log entry 3). -/
def Obligations.FetchTakesTheRecord : Prop :=
  ∀ (i : Instr) (s : State), i.wellFormed = true → s.focus.stage = .F →
    exec i s = .next
      { s with
        recs := s.recs.set s.fetchOffset
          { instr := i, physDst := none, physSrc1 := none, physSrc2 := none, fetchIndex := some s.fetchOffset,
            cycle := { F := some s.currentCycle, Dc := none, R := none, Di := none, IS := none, W := none,
                       C := none } }
        latchF := s.latchF.set s.focus.slot (some s.fetchOffset)
        fetchOffset := s.fetchOffset + 1 }

/-- Decode of any instruction: its slot of `F` moves to the same slot of `Dc` and `cycle[Dc]` is stamped; nothing else
changes.
That a cursor in the state names stage, slot and handle is the model's own (log entry 3). -/
def Obligations.DecodeMovesTheSlot : Prop :=
  ∀ (i : Instr) (s : State) (r : Record), i.wellFormed = true → s.focus.stage = .Dc →
    s.recs[s.focus.handle]? = some r →
    exec i s = .next
      { s with
        recs := s.recs.set s.focus.handle { r with cycle := { r.cycle with Dc := some s.currentCycle } }
        latchDc := s.latchDc.set s.focus.slot (some s.focus.handle)
        latchF := s.latchF.set s.focus.slot none }

/-- Rename of kind `R`, for every destination and both sources: with a non-zero destination it takes the head of the free
list, or stalls and writes nothing when the list is empty; with destination 0 it takes nothing (`phys_dst <- 0` is
92_eei_decisions.md D6). The sources are read from the map as it was before. Nothing else changes.
That a cursor in the state names stage, slot and handle is the model's own (log entry 3). -/
def Obligations.RegOpRenames : Prop :=
  ∀ (d a b : Fin 32) (s : State) (r : Record), s.focus.stage = .R → s.recs[s.focus.handle]? = some r →
    exec (.regOp d.val a.val b.val) s = .next
      (if d = 0 then
        { s with
          recs := s.recs.set s.focus.handle
            { r with
              physSrc1 := some (.reg s.map[a])
              physSrc2 := some (.reg s.map[b])
              physDst := some 0
              cycle := { r.cycle with R := some s.currentCycle } } }
      else match s.free with
        | [] => s
        | p :: rest =>
          { s with
            recs := s.recs.set s.focus.handle
              { r with
                physSrc1 := some (.reg s.map[a])
                physSrc2 := some (.reg s.map[b])
                physDst := some p
                cycle := { r.cycle with R := some s.currentCycle } }
            map := s.map.set d p
            rdy := s.rdy.set p false
            free := rest })

/-- Rename of kind `I`, for every destination, source and immediate: as for `R`, with the immediate passed on as the
second source.
That a cursor in the state names stage, slot and handle is the model's own (log entry 3). -/
def Obligations.ImmOpRenames : Prop :=
  ∀ (d a : Fin 32) (v : Int) (s : State) (r : Record), s.focus.stage = .R → s.recs[s.focus.handle]? = some r →
    exec (.immOp d.val a.val v) s = .next
      (if d = 0 then
        { s with
          recs := s.recs.set s.focus.handle
            { r with
              physSrc1 := some (.reg s.map[a])
              physSrc2 := some (.imm v)
              physDst := some 0
              cycle := { r.cycle with R := some s.currentCycle } } }
      else match s.free with
        | [] => s
        | p :: rest =>
          { s with
            recs := s.recs.set s.focus.handle
              { r with
                physSrc1 := some (.reg s.map[a])
                physSrc2 := some (.imm v)
                physDst := some p
                cycle := { r.cycle with R := some s.currentCycle } }
            map := s.map.set d p
            rdy := s.rdy.set p false
            free := rest })

/-- Rename of kind `L`, for every destination, source and immediate: as for `R`, with the immediate passed on as the
first source.
That a cursor in the state names stage, slot and handle is the model's own (log entry 3). -/
def Obligations.LoadRenames : Prop :=
  ∀ (d b : Fin 32) (v : Int) (s : State) (r : Record), s.focus.stage = .R → s.recs[s.focus.handle]? = some r →
    exec (.load d.val v b.val) s = .next
      (if d = 0 then
        { s with
          recs := s.recs.set s.focus.handle
            { r with
              physSrc1 := some (.imm v)
              physSrc2 := some (.reg s.map[b])
              physDst := some 0
              cycle := { r.cycle with R := some s.currentCycle } } }
      else match s.free with
        | [] => s
        | p :: rest =>
          { s with
            recs := s.recs.set s.focus.handle
              { r with
                physSrc1 := some (.imm v)
                physSrc2 := some (.reg s.map[b])
                physDst := some p
                cycle := { r.cycle with R := some s.currentCycle } }
            map := s.map.set d p
            rdy := s.rdy.set p false
            free := rest })

/-- Rename of kind `S`, for all its operands: the register of `op1` is copied into `phys_dst` (the spec's reading of
"arch_src_for_S", 92_eei_decisions.md D5); no register is taken, whether or not one is free; the map table, the ready
table and the free list keep their contents, and nothing else changes.
That a cursor in the state names stage, slot and handle is the model's own (log entry 3). -/
def Obligations.StoreRenames : Prop :=
  ∀ (a b : Fin 32) (v : Int) (s : State) (r : Record), s.focus.stage = .R → s.recs[s.focus.handle]? = some r →
    exec (.store a.val v b.val) s = .next
      { s with
        recs := s.recs.set s.focus.handle
          { r with
            physSrc1 := some (.imm v)
            physSrc2 := some (.reg s.map[b])
            physDst := some s.map[a]
            cycle := { r.cycle with R := some s.currentCycle } } }

/-- Dispatch of any instruction: an issue-queue entry with the next age, a reorder-buffer entry, neither ready nor
committed, the stamp and the move from `R` to `Di`. A store's flags are true; any other kind's are true for an immediate
and the ready bit for a register. The map table, the ready table and the free list keep their contents, and nothing else
changes (44_dispatch.md sections 1 to 4; that Dispatch fills latch `Di` is 92_eei_decisions.md D11, and that it does not
write the ready table is D12: the spec's choices, log entries 14 and 15).
That a cursor in the state names stage, slot and handle is the model's own (log entry 3). -/
def Obligations.DispatchMakesTheEntries : Prop :=
  ∀ (i : Instr) (s : State) (r : Record), i.wellFormed = true → s.focus.stage = .Di →
    s.recs[s.focus.handle]? = some r → ∀ x y : Src, r.physSrc1 = some x → r.physSrc2 = some y →
    exec i s = .next
      { s with
        recs := s.recs.set s.focus.handle { r with cycle := { r.cycle with Di := some s.currentCycle } }
        iq := s.iq ++
          [{ instrRef := s.focus.handle
             src1Ready := match i.kind, x with
               | .S, _ => true
               | _, .reg p => readyBit s.rdy p
               | _, .imm _ => true
             src2Ready := match i.kind, y with
               | .S, _ => true
               | _, .reg p => readyBit s.rdy p
               | _, .imm _ => true
             age := s.iqAgeCounter }]
        rob := s.rob ++ [{ instrRef := s.focus.handle, ready := false, committed := false }]
        iqAgeCounter := s.iqAgeCounter + 1
        latchDi := s.latchDi.set s.focus.slot (some s.focus.handle)
        latchR := s.latchR.set s.focus.slot none }

/-- Issue of any selected instruction: the stamp, out of the issue queue, onto the tail of the writeback queue, and its
register on the wakeup bus if, and only if, it is producing (that a store and a zero destination put none there is
92_eei_decisions.md D14); nothing else changes.
That a cursor in the state names stage, slot and handle is the model's own (log entry 3). -/
def Obligations.IssueSendsToWriteback : Prop :=
  ∀ (i : Instr) (s : State) (r : Record) (p : Nat), i.wellFormed = true → s.focus.stage = .IS →
    s.recs[s.focus.handle]? = some r → r.physDst = some p →
    exec i s = .next
      { s with
        recs := s.recs.set s.focus.handle { r with cycle := { r.cycle with IS := some s.currentCycle } }
        iq := s.iq.filter fun e => decide (e.instrRef ≠ s.focus.handle)
        wbq := s.wbq ++ [s.focus.handle]
        isTags := if i.produces then s.isTags ++ [p] else s.isTags }

/-- Writeback of any instruction at the head of the queue: the stamp, its reorder-buffer entry ready (found by handle for
every kind, 92_eei_decisions.md D15), and for a producing instruction, and no other (D14), its ready bit true and its
register on the wakeup bus; nothing else changes.
That a cursor in the state names stage, slot and handle is the model's own (log entry 3). -/
def Obligations.WritebackMarksReady : Prop :=
  ∀ (i : Instr) (s : State) (r : Record) (p : Nat), i.wellFormed = true → s.focus.stage = .W →
    s.recs[s.focus.handle]? = some r → r.physDst = some p →
    exec i s = .next
      { s with
        recs := s.recs.set s.focus.handle { r with cycle := { r.cycle with W := some s.currentCycle } }
        wbq := s.wbq.tail
        rob := s.rob.map fun e => if e.instrRef = s.focus.handle then { e with ready := true } else e
        rdy := if i.produces then s.rdy.set p true else s.rdy
        wbTags := if i.produces then s.wbTags ++ [p] else s.wbTags }

/-- Commit of any instruction at the head of the reorder buffer: the stamp, the head popped, one more completed, and for
a producing instruction, and no other, its own register on the tail of the free list and ready (the register and the
value are 92_eei_decisions.md D18); the map table keeps its contents, and nothing else changes.
That a cursor in the state names stage, slot and handle is the model's own (log entry 3). -/
def Obligations.CommitFreesTheOwnRegister : Prop :=
  ∀ (i : Instr) (s : State) (r : Record) (p : Nat), i.wellFormed = true → s.focus.stage = .C →
    s.recs[s.focus.handle]? = some r → r.physDst = some p →
    exec i s = .next
      { s with
        recs := s.recs.set s.focus.handle { r with cycle := { r.cycle with C := some s.currentCycle } }
        free := if i.produces then s.free ++ [p] else s.free
        rdy := if i.produces then s.rdy.set p true else s.rdy
        rob := s.rob.tail
        completedCount := s.completedCount + 1 }

/-- The records that stop are those with a register operand outside `0 … 31`, at every stage and in every state; every
other record has a next state (30_encoding.md section 4, 92_eei_decisions.md D25: the spec's choice). -/
def Obligations.OnlyIllFormedRecordsStop : Prop :=
  ∀ (i : Instr) (s : State),
    (i.wellFormed = false → exec i s = .refused .registerOutOfRange) ∧
    (i.wellFormed = true → ∃ t, exec i s = .next t)

/-! ### One stage -/

/-- Commit retires the ready entries at the head of the reorder buffer, up to the first that is not ready and up to `W` of
them; the registers of the producing ones go on the free list in that order; a younger ready entry behind a not-ready
head stays. The map table and the queues of the other stages keep their contents (47_commit.md section 1; that the
register given back is the instruction's own is 92_eei_decisions.md D18, the order on the free list D21: the spec's
choices, log entry 15). -/
def Obligations.CommitRetiresTheReadyPrefix : Prop :=
  ∀ s t : State, commitStage s = .next t →
    ∃ k, k = min s.config.issueWidth (s.rob.takeWhile ROBEntry.ready).length ∧
      t.rob = s.rob.drop k ∧ t.completedCount = s.completedCount + k ∧
      t.free = s.free ++ (s.rob.take k).flatMap (fun e => s.ownReg (s.producesAt e.instrRef) e.instrRef) ∧
      (∀ j < s.count, t.stampOf .C j =
        if j ∈ (s.rob.take k).map ROBEntry.instrRef then some s.currentCycle else s.stampOf .C j) ∧
      (∀ j, ∀ st, st ≠ .C → t.stampOf st j = s.stampOf st j) ∧
      t.map = s.map ∧ t.iq = s.iq ∧ t.wbq = s.wbq ∧ t.latchF = s.latchF ∧ t.latchDc = s.latchDc ∧
      t.latchR = s.latchR ∧ t.latchDi = s.latchDi

/-- Writeback empties a queue of at most `W` instructions: each is stamped, its reorder-buffer entry is ready, and the
registers of the producing ones, and no others, become ready and go on the wakeup bus (46_writeback.md section 1;
matching by handle and the choice of instructions are 92_eei_decisions.md D14, D15). -/
def Obligations.WritebackEmptiesTheQueue : Prop :=
  ∀ s t : State, s.wbq.length ≤ s.config.issueWidth → writebackStage s = .next t →
    t.wbq = [] ∧
    (∀ j < s.count, t.stampOf .W j = if j ∈ s.wbq then some s.currentCycle else s.stampOf .W j) ∧
    (∀ j, ∀ st, st ≠ .W → t.stampOf st j = s.stampOf st j) ∧
    t.rob = s.rob.map (fun e => if e.instrRef ∈ s.wbq then { e with ready := true } else e) ∧
    t.wbTags = s.wbTags ++ s.wbq.flatMap (fun h => s.ownReg (s.producesAt h) h) ∧
    (∀ p < s.rdy.length, readyBit t.rdy p = true ↔
      readyBit s.rdy p = true ∨ ∃ h ∈ s.wbq, s.producesAt h = true ∧ s.physDstOf h = some p) ∧
    t.map = s.map ∧ t.free = s.free ∧ t.iq = s.iq ∧ t.latchR = s.latchR

/-- Select: the instructions put on the writeback queue are the `W` oldest eligible ones, or all if there are fewer, oldest
first; an entry that is not eligible holds no younger one back. -/
def Obligations.IssueSelectsTheOldestEligible : Prop :=
  ∀ s t : State, (s.iq.map IQEntry.age).Nodup → issueStage s = .next t →
    ∃ sel : List IQEntry,
      t.wbq = s.wbq ++ sel.map IQEntry.instrRef ∧
      (sel.map IQEntry.age).Pairwise (· < ·) ∧
      sel.length = min s.config.issueWidth (s.iq.countP IQEntry.eligible) ∧
      (∀ e ∈ sel, e ∈ s.iq ∧ e.src1Ready = true ∧ e.src2Ready = true) ∧
      (∀ e ∈ s.iq, e.src1Ready = true → e.src2Ready = true → e ∉ sel → ∀ x ∈ sel, x.age < e.age) ∧
      (∀ j < s.count, t.stampOf .IS j =
        if j ∈ sel.map IQEntry.instrRef then some s.currentCycle else s.stampOf .IS j)

/-- Wakeup: each entry that stays has a flag true when it was true or its source is a register on the bus, whose tags are
those of Writeback and those of the producing instructions just issued; an immediate matches no tag (92_eei_decisions.md
D13, D14, D16, D17: the spec's choices). -/
def Obligations.WakeupRaisesMatchingFlags : Prop :=
  ∀ s t : State, issueStage s = .next t →
    t.wbTags = s.wbTags ∧
    t.isTags = s.isTags ++ s.selected.flatMap (fun e => s.ownReg (s.producesAt e.instrRef) e.instrRef) ∧
    t.iq.map IQEntry.age =
      (s.iq.filter fun e => decide (e.instrRef ∉ s.selected.map IQEntry.instrRef)).map IQEntry.age ∧
    (∀ e' ∈ t.iq, ∃ e ∈ s.iq, e'.instrRef = e.instrRef ∧ e'.age = e.age ∧
      ∀ r ∈ s.recs[e.instrRef]?,
        (e'.src1Ready = true ↔
          e.src1Ready = true ∨ ∃ p ∈ t.wbTags ++ t.isTags, r.physSrc1 = some (.reg p)) ∧
        (e'.src2Ready = true ↔
          e.src2Ready = true ∨ ∃ p ∈ t.wbTags ++ t.isTags, r.physSrc2 = some (.reg p))) ∧
    t.map = s.map ∧ t.rdy = s.rdy ∧ t.free = s.free ∧ t.rob = s.rob

/-- Dispatch takes every renamed slot of `R`, left to right, and no pending one: each gets a reorder-buffer entry at the
tail and the next age, whatever its kind; the slots taken are empty in `R` and stand in `Di` (44_dispatch.md sections 1
to 3; which slots are renamed is 92_eei_decisions.md D10, what `Di` holds D11, the order of the slots D21: the spec's
choices, log entries 14 and 15). -/
def Obligations.DispatchTakesEveryRenamedSlot : Prop :=
  ∀ s t : State, dispatchStage s = .next t →
    ∃ taken : List Nat,
      taken = (List.range s.config.issueWidth).filterMap
        (fun k => (slotAt s.latchR k).filter fun h => s.renamed h) ∧
      t.rob = s.rob ++ taken.map (fun h => { instrRef := h, ready := false, committed := false }) ∧
      t.iq.map IQEntry.instrRef = s.iq.map IQEntry.instrRef ++ taken ∧
      t.iq.map IQEntry.age = s.iq.map IQEntry.age ++ List.range' s.iqAgeCounter taken.length ∧
      t.iqAgeCounter = s.iqAgeCounter + taken.length ∧
      (∀ k < s.config.issueWidth,
        slotAt t.latchR k = (slotAt s.latchR k).filter (fun h => !s.renamed h) ∧
        slotAt t.latchDi k = (slotAt s.latchR k).filter (fun h => s.renamed h)) ∧
      (∀ j < s.count, t.stampOf .Di j = if j ∈ taken then some s.currentCycle else s.stampOf .Di j)

/-- Rename takes the group of `Dc` exactly when `R` is empty, and then renames from the left: once a slot has stalled no
slot to its right is renamed, the free list is empty, and the leftmost pending instruction is a producing one
(43_rename.md sections 1 and 2; whole groups are 92_eei_decisions.md D8, pending slots D10). -/
def Obligations.RenameFencesAtTheFirstStall : Prop :=
  ∀ s t : State, (occupied s.takeGroup.latchR).Nodup → s.takeGroup.latchR.length = s.config.issueWidth →
    (∀ h ∈ occupied s.takeGroup.latchR, s.renamed h = false) → renameStage s = .next t →
    (latchEmpty s.latchR = true → t.latchR = s.latchDc ∧ latchEmpty t.latchDc = true) ∧
    (latchEmpty s.latchR = false → t.latchR = s.latchR ∧ t.latchDc = s.latchDc) ∧
    (∀ k k' h h', k < k' → slotAt t.latchR k = some h → slotAt t.latchR k' = some h' →
      t.renamed h' = true → t.renamed h = true) ∧
    (∀ k h, slotAt t.latchR k = some h → t.renamed h = false →
      (∀ k' h', k' < k → slotAt t.latchR k' = some h' → t.renamed h' = true) →
      t.free = [] ∧ t.producesAt h = true)

/-- Decode moves the whole group of `F` to `Dc`, slot by slot, when `Dc` is empty, and stamps every instruction of it;
empty slots move as empty; when `F` is empty too it stamps nothing. -/
def Obligations.DecodeMovesTheGroup : Prop :=
  ∀ s t : State, latchEmpty s.latchDc = true → s.latchF.length = s.config.issueWidth →
    s.latchDc.length = s.config.issueWidth → decodeStage s = .next t →
    t.latchDc = s.latchF ∧ t.latchF = emptyLatch s.config.issueWidth ∧
    (∀ j < s.count, t.stampOf .Dc j =
      if j ∈ occupied s.latchF then some s.currentCycle else s.stampOf .Dc j) ∧
    (∀ j, ∀ st, st ≠ .Dc → t.stampOf st j = s.stampOf st j) ∧
    t.map = s.map ∧ t.rdy = s.rdy ∧ t.free = s.free ∧ t.iq = s.iq ∧ t.rob = s.rob ∧ t.wbq = s.wbq ∧
    t.latchR = s.latchR ∧ t.latchDi = s.latchDi ∧ t.fetchOffset = s.fetchOffset

/-- Fetch fills an empty `F` with the next records of the trace, at most `W` of them and as many as are left, in the
leftmost slots: each gets the next fetch index and the stamp, its renamed fields and other stamps unset. -/
def Obligations.FetchFillsTheGroup : Prop :=
  ∀ s t : State, latchEmpty s.latchF = true → s.latchF.length = s.config.issueWidth →
    s.recs.length = s.config.trace.length → fetchStage s = .next t →
    ∃ n, n = min s.config.issueWidth (s.config.trace.length - s.fetchOffset) ∧
      t.fetchOffset = s.fetchOffset + n ∧
      t.latchF = (List.range' s.fetchOffset n).map some ++ emptyLatch (s.config.issueWidth - n) ∧
      (∀ j, s.fetchOffset ≤ j → j < s.fetchOffset + n → ∃ r, t.recs[j]? = some r ∧
        s.config.trace[j]? = some r.instr ∧ r.fetchIndex = some j ∧ r.cycle.F = some s.currentCycle ∧
        r.physDst = none ∧ r.physSrc1 = none ∧ r.physSrc2 = none ∧
        ∀ st, st ≠ .F → t.stampOf st j = none) ∧
      (∀ j, j < s.fetchOffset ∨ s.fetchOffset + n ≤ j → t.recs[j]? = s.recs[j]?) ∧
      t.map = s.map ∧ t.rdy = s.rdy ∧ t.free = s.free ∧ t.iq = s.iq ∧ t.rob = s.rob ∧ t.wbq = s.wbq ∧
      t.latchDc = s.latchDc ∧ t.latchR = s.latchR ∧ t.latchDi = s.latchDi

/-- The map table is written by Rename only; the free list by Commit and Rename only; the ready table by Commit,
Writeback and Rename only (40_tick_protocol.md section 3; 92_eei_decisions.md D12). -/
def Obligations.TablesHaveTheirWriters : Prop :=
  ∀ s t : State,
    (commitStage s = .next t → t.map = s.map) ∧
    (writebackStage s = .next t → t.map = s.map ∧ t.free = s.free) ∧
    (issueStage s = .next t → t.map = s.map ∧ t.free = s.free ∧ t.rdy = s.rdy) ∧
    (dispatchStage s = .next t → t.map = s.map ∧ t.free = s.free ∧ t.rdy = s.rdy) ∧
    (decodeStage s = .next t → t.map = s.map ∧ t.free = s.free ∧ t.rdy = s.rdy) ∧
    (fetchStage s = .next t → t.map = s.map ∧ t.free = s.free ∧ t.rdy = s.rdy)

/-! ### One step -/

/-- A stage that comes to an instruction does to the state what `exec` of that instruction does with the cursor on it, and
goes on from there: the retirement of a ready head, the drain of the writeback queue, the issue of a selected entry, the
dispatch of a renamed slot, the rename of a pending one (which ends the stage if it is still pending), the decode of an
occupied slot.
That a cursor in the state names stage, slot and handle is the model's own (log entry 3). -/
def Obligations.StagesRunTheDecodedInstruction : Prop :=
  ∀ (s : State) (n k h : Nat) (r : Record), s.recs[h]? = some r →
    (∀ e rest, s.rob = e :: rest → e.ready = true → e.instrRef = h →
      commitWalk (n + 1) s = andThen (exec r.instr (s.focusOn .C 0 h)) (commitWalk n)) ∧
    (∀ rest, s.wbq = h :: rest →
      writebackDrain (n + 1) s = andThen (exec r.instr (s.focusOn .W 0 h)) (writebackDrain n)) ∧
    (∀ e es, e.instrRef = h →
      issueEach (e :: es) s = andThen (exec r.instr (s.focusOn .IS 0 h)) (issueEach es)) ∧
    (slotAt s.latchR k = some h → r.cycle.R.isSome = true →
      dispatchSlots (n + 1) k s = andThen (exec r.instr (s.focusOn .Di k h)) (dispatchSlots n (k + 1))) ∧
    (slotAt s.latchR k = some h → r.cycle.R = none →
      renameSlots (n + 1) k s = andThen (exec r.instr (s.focusOn .R k h)) fun t =>
        if t.renamed h then renameSlots n (k + 1) t else .next t) ∧
    (slotAt s.latchF k = some h →
      decodeSlots (n + 1) k s = andThen (exec r.instr (s.focusOn .Dc k h)) (decodeSlots n (k + 1)))

/-- A step whose Fetch finds `F` empty and a record left runs, after the six stages before Fetch, `exec` of that record
with the cursor on slot 0 of Fetch, then fetches into the other slots and ends the tick. With the record placed from a
table word that decodes to `i`, it is the last one, and the step runs exactly `i`. How a word is placed is the model's own
(log entry 4), as is the cursor (log entry 3). -/
def Obligations.StepRunsTheFetchedInstruction : Prop :=
  (∀ (s b : State) (i : Instr) (n : Nat), configRefusal s.config = none → s.done = false →
    s.config.issueWidth = n + 1 → beforeFetch s = .next b → latchEmpty b.latchF = true →
    s.config.trace[b.fetchOffset]? = some i →
    step s = andThen (exec i (b.focusOn .F 0 b.fetchOffset)) fun u =>
      andThen (fetchSlots n 1 u) fun v => .next v.finish) ∧
  ∀ (s b : State) (w : Nat) (i : Instr), decodeTableWord 32 w = some i →
    s.fetchOffset ≤ s.config.trace.length → configRefusal (s.withFetchWord 32 w).config = none →
    (s.withFetchWord 32 w).done = false → beforeFetch (s.withFetchWord 32 w) = .next b →
    step (s.withFetchWord 32 w) = andThen (exec i (b.focusOn .F 0 s.fetchOffset)) fun u => .next u.finish

/-- The cycle number is 0 after reset, goes up by one in every tick, and is what every stamp of the tick holds; the first
group is stamped 0 at Fetch. -/
def Obligations.StampsAreTheCycleNumber : Prop :=
  (∀ c : Config, (State.init c).currentCycle = 0) ∧
  (∀ s t : State, s.done = false → step s = .next t → t.currentCycle = s.currentCycle + 1) ∧
  (∀ (s t : State) (st : Stage) (j v : Nat), step s = .next t → t.stampOf st j = some v →
    s.stampOf st j = some v ∨ v = s.currentCycle) ∧
  ∀ (c : Config) (t : State) (j : Nat), step (State.init c) = .next t → j < c.issueWidth → j < c.trace.length →
    t.stampOf .F j = some 0

/-- No step changes the configuration or the instruction of a record, and no counter ever goes down (10_state.md sections
1, 2 and 6). -/
def Obligations.ConfigurationIsImmutable : Prop :=
  ∀ s t : State, s.recs.map Record.instr = s.config.trace → step s = .next t →
    t.config = s.config ∧ t.recs.map Record.instr = s.config.trace ∧
    s.currentCycle ≤ t.currentCycle ∧ s.fetchOffset ≤ t.fetchOffset ∧
    s.iqAgeCounter ≤ t.iqAgeCounter ∧ s.completedCount ≤ t.completedCount

/-- While an instruction stays in its slot of `R` over a tick, an occupied `Dc` keeps its group, and then an occupied `F`
keeps its group and nothing is fetched (40_tick_protocol.md section 2; the whole group is 92_eei_decisions.md D8). -/
def Obligations.StallHoldsTheFrontEnd : Prop :=
  ∀ (s t : State) (k h : Nat), Shaped s → Ordered s → step s = .next t →
    slotAt s.latchR k = some h → slotAt t.latchR k = some h →
    latchEmpty s.latchDc = false →
    t.latchDc = s.latchDc ∧
    (latchEmpty s.latchF = false → t.latchF = s.latchF ∧ t.fetchOffset = s.fetchOffset)

/-- A tick that changes nothing but the cycle number is repeated for ever: the hang of 70_reset_and_hazards.md section 2 is
no final state, no error, and no stamp is ever added (92_eei_decisions.md D32). -/
def Obligations.HangRepeatsForEver : Prop :=
  ∀ s : State, step s = .next { s with currentCycle := s.currentCycle + 1 } →
    ∀ k, Host.Core.run core k s = .next { s with currentCycle := s.currentCycle + k }

/-- Any well-formed record alone in the trace, under any legal `W` and `P`, passes the seven stages in ticks 0 to 6: after
seven steps from reset the engine is done and its only row is `0, 1, 2, 3, 4, 5, 6`; a producing record leaves register
32 at the tail of the free list and mapped, any other leaves both tables alone (70_reset_and_hazards.md sections 1 and
3; 43_rename.md section 2; 47_commit.md section 1; that Commit gives back the instruction's own register and leaves the
map table alone is 92_eei_decisions.md D18: the spec's choice, log entry 15). -/
def Obligations.LoneInstructionTakesSevenTicks : Prop :=
  ∀ (i : Instr) (w p : Nat), i.wellFormed = true → 1 ≤ w → 32 < p →
    ∃ t, Host.Core.run core 7 (State.init { issueWidth := w, physRegCount := p, trace := [i] }) = .next t ∧
      t.done = true ∧ t.currentCycle = 7 ∧ t.report = some [(0, [0, 1, 2, 3, 4, 5, 6])] ∧
      (if i.produces then t.free = List.range' 33 (p - 33) ++ [32] else t.free = List.range' 32 (p - 32)) ∧
      ∀ a : Fin 32, t.map[a] = if i.produces = true ∧ i.op1 = (a.val : Int) then 32 else a.val

/-! ### Invariants -/

/-- The reset state of every legal configuration satisfies the whole invariant (10_state.md section 7; 48_invariants.md
sections 2 to 5). The empty queues and latches and the zero counters of reset are 92_eei_decisions.md D30 (the spec's
choice, log entry 15); that a cursor is at rest is the model's own (log entry 3). -/
def Obligations.ResetSatisfiesTheInvariant : Prop :=
  ∀ c : Config, c.legal = true → Inv (State.init c)

/-- Every step keeps the shape of the state: a legal configuration, the records of the trace, the sizes of the ready table
and the latches, no tag on the wires (10_state.md sections 1, 2, 3, 5 and 6), and the cursor at rest, which is the model's
own (log entry 3). -/
def Obligations.StepKeepsTheShape : Prop :=
  ∀ s t : State, Shaped s → step s = .next t → Shaped t

/-- From every ordered state the step goes on: no instruction raises an exception, no step stops. -/
def Obligations.OrderedStatesNeverStop : Prop :=
  ∀ s : State, Shaped s → Ordered s → ∃ t, step s = .next t

/-- Every step keeps program order and the place of every instruction (48_invariants.md section 3), handles that name a
record (10_state.md section 8) and the fetch index equal to the handle (42_fetch_decode.md section 1). That no resident
entry of the reorder buffer is committed is 10_state.md section 4 with 92_eei_decisions.md D31 (the spec's choice, log
entry 14); that the issue queue is a list, which stands in ascending age, is the model's own (log entry 9). -/
def Obligations.StepKeepsTheOrder : Prop :=
  ∀ s t : State, Shaped s → Ordered s → step s = .next t → Ordered t

/-- Every step keeps the stamps monotone, in program order, and at most `W` wide, and the last commit in the tick that ends
the run (48_invariants.md sections 4 and 5); and it keeps latch `Di` holding exactly the instructions just dispatched
(10_state.md section 5, with 92_eei_decisions.md D11: the spec's choice, log entries 14 and 15). -/
def Obligations.StepKeepsTheStamps : Prop :=
  ∀ s t : State, Shaped s → Ordered s → Timed s → step s = .next t → Timed t

/-- Every step keeps the partition of the registers and the meaning of the ready table (48_invariants.md section 2), and
the renamed fields of an instruction filled exactly when its rename has completed (43_rename.md section 2). That all are
filled in that tick is 92_eei_decisions.md D10, that a zero destination fills `phys_dst` too is D6, and that Commit gives
back the instruction's own register is D18 (47_commit.md section 1): the spec's choices, log entry 15. -/
def Obligations.StepKeepsTheRegisters : Prop :=
  ∀ s t : State, Shaped s → Ordered s → RegistersSound s → step s = .next t → RegistersSound t

/-- Every step keeps the map table equal to the youngest renamed producer's register, committed or not (48_invariants.md
section 2). -/
def Obligations.StepKeepsTheMapping : Prop :=
  ∀ s t : State, Shaped s → Ordered s → RegistersSound s → MapSound s → step s = .next t → MapSound t

/-- Every step keeps every renamed source naming the register of the youngest older producer (48_invariants.md section
4). -/
def Obligations.StepKeepsTheSources : Prop :=
  ∀ s t : State, Shaped s → Ordered s → RegistersSound s → MapSound s → SourcesRenamed s → step s = .next t →
    SourcesRenamed t

/-- Every step keeps read-after-write order: no instruction but a store issues before, or in the same tick as, the
producer of one of its sources (48_invariants.md section 4). -/
def Obligations.StepKeepsReadAfterWrite : Prop :=
  ∀ s t : State, Inv s → step s = .next t → ReadAfterWrite t

/-- From a state that satisfies the invariant the engine runs for ever without a stop, and the invariant holds after
every number of steps (48_invariants.md sections 2 to 5; 10_state.md sections 1 to 6; 42_fetch_decode.md section 1;
43_rename.md section 2). Of what the invariant says, the renamed fields rest on 92_eei_decisions.md D6 and D10, latch `Di`
on D11, the register given back at Commit on D18, the flag `committed` on D31 (the spec's choices, log entries 14 and
15); the cursor (log entry 3) and the order of the issue queue as a list (log entry 9) are the model's own. -/
def Obligations.InvariantHoldsForEver : Prop :=
  ∀ (s : State) (k : Nat), Inv s → ∃ t, Host.Core.run core k s = .next t ∧ Inv t ∧ t.config = s.config

/-- At every observation point of a run the ready bit of register 0 is true and architectural register 0 is mapped to
register 0; and no instruction writes either at any stage: not the mapping in any state, not the ready bit where register
0 is neither free nor the destination of a producing instruction, which holds throughout a run. -/
def Obligations.ZeroRegisterIsImmutable : Prop :=
  (∀ (s t : State) (k : Nat), Inv s → Host.Core.run core k s = .next t →
    readyBit t.rdy 0 = true ∧ t.map[(0 : Fin 32)] = 0 ∧ 0 ∉ t.free ∧
    ∀ j < t.count, t.producesAt j = true → t.physDstOf j ≠ some 0) ∧
  ∀ (i : Instr) (s t : State), exec i s = .next t →
    t.map[(0 : Fin 32)] = s.map[(0 : Fin 32)] ∧
    (0 ∉ s.free → (i.produces = true → s.physDstOf s.focus.handle ≠ some 0) → t.rdy[0]? = s.rdy[0]?)

/-- In every run at most `W` instructions pass any stage in any tick. -/
def Obligations.AtMostWPerStageAndTick : Prop :=
  ∀ (s t : State) (k : Nat), Inv s → Host.Core.run core k s = .next t →
    ∀ (st : Stage) (v : Nat), t.widthUsed st v ≤ t.config.issueWidth

/-- No run commits an instruction before tick 6, and none that has a record is done before seven ticks
(70_reset_and_hazards.md section 1). -/
def Obligations.NothingCommitsBeforeTickSix : Prop :=
  ∀ s : State, Inv s →
    (∀ j < s.count, ∀ t ∈ s.stampOf .C j, 6 ≤ t) ∧
    (s.done = true → 1 ≤ s.count → 7 ≤ s.currentCycle)

/-- A stamp and a renamed field, once set, never change again (10_state.md section 2). -/
def Obligations.StampsAreWrittenOnce : Prop :=
  ∀ s t : State, Inv s → step s = .next t → ∀ j < s.count,
    (∀ st, ∀ v ∈ s.stampOf st j, t.stampOf st j = some v) ∧
    (s.passed .R j → ∀ r ∈ s.recs[j]?, ∀ r' ∈ t.recs[j]?,
      r'.physDst = r.physDst ∧ r'.physSrc1 = r.physSrc1 ∧ r'.physSrc2 = r.physSrc2)

/-- When the engine is done every stamp is set, every queue and latch is empty, every register is ready, the free list is
a permutation of `32 … P-1`, the counters equal `N`, the cycle number is one more than the last commit's stamp (0 for
`N = 0`), and the map table names the youngest producers' registers (48_invariants.md section 5). -/
def Obligations.DoneStateIsClean : Prop :=
  ∀ s : State, Inv s → s.done = true →
    (∀ j < s.count, ∀ st, s.passed st j) ∧
    s.iq = [] ∧ s.rob = [] ∧ s.wbq = [] ∧
    (∀ l ∈ [s.latchF, s.latchDc, s.latchR, s.latchDi], latchEmpty l = true) ∧
    (∀ p < s.config.physRegCount, readyBit s.rdy p = true) ∧
    s.free.Perm (List.range' 32 (s.config.physRegCount - 32)) ∧
    s.fetchOffset = s.config.trace.length ∧ s.iqAgeCounter = s.config.trace.length ∧
    s.completedCount = s.config.trace.length ∧
    (∀ j, j + 1 = s.config.trace.length → ∃ t ∈ s.stampOf .C j, s.currentCycle = t + 1) ∧
    (s.config.trace = [] → s.currentCycle = 0) ∧
    ∀ a : Fin 32, s.map[a] = mappingAfter a s.recs

/-- A trace with at most `P - 32` producing instructions is done after at most seven ticks for each instruction
(48_invariants.md section 5, 70_reset_and_hazards.md section 2); the bound on the ticks is the model's inference, the spec
says only that the run ends. -/
def Obligations.FewProducersTerminate : Prop :=
  ∀ c : Config, c.legal = true → c.trace.countP Instr.produces ≤ c.physRegCount - 32 →
    ∃ k ≤ 7 * c.trace.length, ∃ t, Host.Core.run core k (State.init c) = .next t ∧ t.done = true

/-- A trace without register dependences (no register that a source names is ever written) is done after at most seven
ticks for each instruction, however few registers there are (48_invariants.md section 5); the bound on the ticks is the
model's inference, the spec says only that the run ends. -/
def Obligations.IndependentTracesTerminate : Prop :=
  ∀ c : Config, c.legal = true →
    (∀ i ∈ c.trace, ∀ pos, ∀ a ∈ i.sourceReg pos, ∀ j ∈ c.trace, j.produces = true → j.op1 ≠ (a : Int)) →
    ∃ k ≤ 7 * c.trace.length, ∃ t, Host.Core.run core k (State.init c) = .next t ∧ t.done = true

/-- Once the engine is done the reporter gets one row per instruction in fetch order, and the numbers of row `j` are the
stamps `F, Dc, R, Di, IS, W, C` of instruction `j` in this order, strictly increasing (30_encoding.md section 6;
48_invariants.md sections 4 and 5). That it gets nothing before is the model's own (log entry 12). -/
def Obligations.ReportHasEveryRow : Prop :=
  ∀ s : State, Inv s →
    (s.done = false → s.report = none) ∧
    (s.done = true → ∃ rows, s.report = some rows ∧ rows.map Prod.fst = List.range s.count ∧
      ∀ row ∈ rows, row.2.Pairwise (· < ·) ∧
        row.2.map some = [s.stampOf .F row.1, s.stampOf .Dc row.1, s.stampOf .R row.1, s.stampOf .Di row.1,
          s.stampOf .IS row.1, s.stampOf .W row.1, s.stampOf .C row.1])
end

