-- ==== Sys2Proof/Laws/State.lean ====
section
/-! SUPPORT. For every named update of the state one lemma per field, so that no proof unfolds a record update. -/

namespace Sys2Proof.Machine

open Sys2Proof

/-! ### focusOn -/

@[simp] theorem State.focusOn_config (st : Stage) (k h : Nat) (s : State) : (s.focusOn st k h).config = s.config := rfl
@[simp] theorem State.focusOn_recs (st : Stage) (k h : Nat) (s : State) : (s.focusOn st k h).recs = s.recs := rfl
@[simp] theorem State.focusOn_map (st : Stage) (k h : Nat) (s : State) : (s.focusOn st k h).map = s.map := rfl
@[simp] theorem State.focusOn_rdy (st : Stage) (k h : Nat) (s : State) : (s.focusOn st k h).rdy = s.rdy := rfl
@[simp] theorem State.focusOn_free (st : Stage) (k h : Nat) (s : State) : (s.focusOn st k h).free = s.free := rfl
@[simp] theorem State.focusOn_iq (st : Stage) (k h : Nat) (s : State) : (s.focusOn st k h).iq = s.iq := rfl
@[simp] theorem State.focusOn_rob (st : Stage) (k h : Nat) (s : State) : (s.focusOn st k h).rob = s.rob := rfl
@[simp] theorem State.focusOn_wbq (st : Stage) (k h : Nat) (s : State) : (s.focusOn st k h).wbq = s.wbq := rfl
@[simp] theorem State.focusOn_latchF (st : Stage) (k h : Nat) (s : State) : (s.focusOn st k h).latchF = s.latchF := rfl
@[simp] theorem State.focusOn_latchDc (st : Stage) (k h : Nat) (s : State) : (s.focusOn st k h).latchDc = s.latchDc := rfl
@[simp] theorem State.focusOn_latchR (st : Stage) (k h : Nat) (s : State) : (s.focusOn st k h).latchR = s.latchR := rfl
@[simp] theorem State.focusOn_latchDi (st : Stage) (k h : Nat) (s : State) : (s.focusOn st k h).latchDi = s.latchDi := rfl
@[simp] theorem State.focusOn_currentCycle (st : Stage) (k h : Nat) (s : State) : (s.focusOn st k h).currentCycle = s.currentCycle := rfl
@[simp] theorem State.focusOn_fetchOffset (st : Stage) (k h : Nat) (s : State) : (s.focusOn st k h).fetchOffset = s.fetchOffset := rfl
@[simp] theorem State.focusOn_iqAgeCounter (st : Stage) (k h : Nat) (s : State) : (s.focusOn st k h).iqAgeCounter = s.iqAgeCounter := rfl
@[simp] theorem State.focusOn_completedCount (st : Stage) (k h : Nat) (s : State) : (s.focusOn st k h).completedCount = s.completedCount := rfl
@[simp] theorem State.focusOn_wbTags (st : Stage) (k h : Nat) (s : State) : (s.focusOn st k h).wbTags = s.wbTags := rfl
@[simp] theorem State.focusOn_isTags (st : Stage) (k h : Nat) (s : State) : (s.focusOn st k h).isTags = s.isTags := rfl
@[simp] theorem State.focusOn_focus (st : Stage) (k h : Nat) (s : State) : (s.focusOn st k h).focus = { stage := st, slot := k, handle := h } := rfl

/-! ### fetchOne -/

@[simp] theorem State.fetchOne_config (i : Instr) (s : State) : (s.fetchOne i).config = s.config := rfl
@[simp] theorem State.fetchOne_map (i : Instr) (s : State) : (s.fetchOne i).map = s.map := rfl
@[simp] theorem State.fetchOne_rdy (i : Instr) (s : State) : (s.fetchOne i).rdy = s.rdy := rfl
@[simp] theorem State.fetchOne_free (i : Instr) (s : State) : (s.fetchOne i).free = s.free := rfl
@[simp] theorem State.fetchOne_iq (i : Instr) (s : State) : (s.fetchOne i).iq = s.iq := rfl
@[simp] theorem State.fetchOne_rob (i : Instr) (s : State) : (s.fetchOne i).rob = s.rob := rfl
@[simp] theorem State.fetchOne_wbq (i : Instr) (s : State) : (s.fetchOne i).wbq = s.wbq := rfl
@[simp] theorem State.fetchOne_latchF (i : Instr) (s : State) : (s.fetchOne i).latchF = s.latchF.set s.focus.slot (some s.fetchOffset) := rfl
@[simp] theorem State.fetchOne_latchDc (i : Instr) (s : State) : (s.fetchOne i).latchDc = s.latchDc := rfl
@[simp] theorem State.fetchOne_latchR (i : Instr) (s : State) : (s.fetchOne i).latchR = s.latchR := rfl
@[simp] theorem State.fetchOne_latchDi (i : Instr) (s : State) : (s.fetchOne i).latchDi = s.latchDi := rfl
@[simp] theorem State.fetchOne_currentCycle (i : Instr) (s : State) : (s.fetchOne i).currentCycle = s.currentCycle := rfl
@[simp] theorem State.fetchOne_fetchOffset (i : Instr) (s : State) : (s.fetchOne i).fetchOffset = s.fetchOffset + 1 := rfl
@[simp] theorem State.fetchOne_iqAgeCounter (i : Instr) (s : State) : (s.fetchOne i).iqAgeCounter = s.iqAgeCounter := rfl
@[simp] theorem State.fetchOne_completedCount (i : Instr) (s : State) : (s.fetchOne i).completedCount = s.completedCount := rfl
@[simp] theorem State.fetchOne_wbTags (i : Instr) (s : State) : (s.fetchOne i).wbTags = s.wbTags := rfl
@[simp] theorem State.fetchOne_isTags (i : Instr) (s : State) : (s.fetchOne i).isTags = s.isTags := rfl
@[simp] theorem State.fetchOne_focus (i : Instr) (s : State) : (s.fetchOne i).focus = s.focus := rfl

/-! ### decodeOne -/

@[simp] theorem State.decodeOne_config (s : State) : (s.decodeOne).config = s.config := rfl
@[simp] theorem State.decodeOne_recs (s : State) : (s.decodeOne).recs = s.recs.modify s.focus.handle (Record.stamp .Dc s.currentCycle) := rfl
@[simp] theorem State.decodeOne_map (s : State) : (s.decodeOne).map = s.map := rfl
@[simp] theorem State.decodeOne_rdy (s : State) : (s.decodeOne).rdy = s.rdy := rfl
@[simp] theorem State.decodeOne_free (s : State) : (s.decodeOne).free = s.free := rfl
@[simp] theorem State.decodeOne_iq (s : State) : (s.decodeOne).iq = s.iq := rfl
@[simp] theorem State.decodeOne_rob (s : State) : (s.decodeOne).rob = s.rob := rfl
@[simp] theorem State.decodeOne_wbq (s : State) : (s.decodeOne).wbq = s.wbq := rfl
@[simp] theorem State.decodeOne_latchF (s : State) : (s.decodeOne).latchF = s.latchF.set s.focus.slot none := rfl
@[simp] theorem State.decodeOne_latchDc (s : State) : (s.decodeOne).latchDc = s.latchDc.set s.focus.slot (some s.focus.handle) := rfl
@[simp] theorem State.decodeOne_latchR (s : State) : (s.decodeOne).latchR = s.latchR := rfl
@[simp] theorem State.decodeOne_latchDi (s : State) : (s.decodeOne).latchDi = s.latchDi := rfl
@[simp] theorem State.decodeOne_currentCycle (s : State) : (s.decodeOne).currentCycle = s.currentCycle := rfl
@[simp] theorem State.decodeOne_fetchOffset (s : State) : (s.decodeOne).fetchOffset = s.fetchOffset := rfl
@[simp] theorem State.decodeOne_iqAgeCounter (s : State) : (s.decodeOne).iqAgeCounter = s.iqAgeCounter := rfl
@[simp] theorem State.decodeOne_completedCount (s : State) : (s.decodeOne).completedCount = s.completedCount := rfl
@[simp] theorem State.decodeOne_wbTags (s : State) : (s.decodeOne).wbTags = s.wbTags := rfl
@[simp] theorem State.decodeOne_isTags (s : State) : (s.decodeOne).isTags = s.isTags := rfl
@[simp] theorem State.decodeOne_focus (s : State) : (s.decodeOne).focus = s.focus := rfl

/-! ### dispatchOne -/

@[simp] theorem State.dispatchOne_config (w : Bool) (s : State) : (s.dispatchOne w).config = s.config := rfl
@[simp] theorem State.dispatchOne_recs (w : Bool) (s : State) : (s.dispatchOne w).recs = s.recs.modify s.focus.handle (Record.stamp .Di s.currentCycle) := rfl
@[simp] theorem State.dispatchOne_map (w : Bool) (s : State) : (s.dispatchOne w).map = s.map := rfl
@[simp] theorem State.dispatchOne_rdy (w : Bool) (s : State) : (s.dispatchOne w).rdy = s.rdy := rfl
@[simp] theorem State.dispatchOne_free (w : Bool) (s : State) : (s.dispatchOne w).free = s.free := rfl
@[simp] theorem State.dispatchOne_rob (w : Bool) (s : State) : (s.dispatchOne w).rob = s.rob ++ [{ instrRef := s.focus.handle, ready := false, committed := false }] := rfl
@[simp] theorem State.dispatchOne_wbq (w : Bool) (s : State) : (s.dispatchOne w).wbq = s.wbq := rfl
@[simp] theorem State.dispatchOne_latchF (w : Bool) (s : State) : (s.dispatchOne w).latchF = s.latchF := rfl
@[simp] theorem State.dispatchOne_latchDc (w : Bool) (s : State) : (s.dispatchOne w).latchDc = s.latchDc := rfl
@[simp] theorem State.dispatchOne_latchR (w : Bool) (s : State) : (s.dispatchOne w).latchR = s.latchR.set s.focus.slot none := rfl
@[simp] theorem State.dispatchOne_latchDi (w : Bool) (s : State) : (s.dispatchOne w).latchDi = s.latchDi.set s.focus.slot (some s.focus.handle) := rfl
@[simp] theorem State.dispatchOne_currentCycle (w : Bool) (s : State) : (s.dispatchOne w).currentCycle = s.currentCycle := rfl
@[simp] theorem State.dispatchOne_fetchOffset (w : Bool) (s : State) : (s.dispatchOne w).fetchOffset = s.fetchOffset := rfl
@[simp] theorem State.dispatchOne_iqAgeCounter (w : Bool) (s : State) : (s.dispatchOne w).iqAgeCounter = s.iqAgeCounter + 1 := rfl
@[simp] theorem State.dispatchOne_completedCount (w : Bool) (s : State) : (s.dispatchOne w).completedCount = s.completedCount := rfl
@[simp] theorem State.dispatchOne_wbTags (w : Bool) (s : State) : (s.dispatchOne w).wbTags = s.wbTags := rfl
@[simp] theorem State.dispatchOne_isTags (w : Bool) (s : State) : (s.dispatchOne w).isTags = s.isTags := rfl
@[simp] theorem State.dispatchOne_focus (w : Bool) (s : State) : (s.dispatchOne w).focus = s.focus := rfl

/-! ### issueOne -/

@[simp] theorem State.issueOne_config (b : Bool) (s : State) : (s.issueOne b).config = s.config := rfl
@[simp] theorem State.issueOne_recs (b : Bool) (s : State) : (s.issueOne b).recs = s.recs.modify s.focus.handle (Record.stamp .IS s.currentCycle) := rfl
@[simp] theorem State.issueOne_map (b : Bool) (s : State) : (s.issueOne b).map = s.map := rfl
@[simp] theorem State.issueOne_rdy (b : Bool) (s : State) : (s.issueOne b).rdy = s.rdy := rfl
@[simp] theorem State.issueOne_free (b : Bool) (s : State) : (s.issueOne b).free = s.free := rfl
@[simp] theorem State.issueOne_iq (b : Bool) (s : State) : (s.issueOne b).iq = s.iq.filter fun e => e.instrRef != s.focus.handle := rfl
@[simp] theorem State.issueOne_rob (b : Bool) (s : State) : (s.issueOne b).rob = s.rob := rfl
@[simp] theorem State.issueOne_wbq (b : Bool) (s : State) : (s.issueOne b).wbq = s.wbq ++ [s.focus.handle] := rfl
@[simp] theorem State.issueOne_latchF (b : Bool) (s : State) : (s.issueOne b).latchF = s.latchF := rfl
@[simp] theorem State.issueOne_latchDc (b : Bool) (s : State) : (s.issueOne b).latchDc = s.latchDc := rfl
@[simp] theorem State.issueOne_latchR (b : Bool) (s : State) : (s.issueOne b).latchR = s.latchR := rfl
@[simp] theorem State.issueOne_latchDi (b : Bool) (s : State) : (s.issueOne b).latchDi = s.latchDi := rfl
@[simp] theorem State.issueOne_currentCycle (b : Bool) (s : State) : (s.issueOne b).currentCycle = s.currentCycle := rfl
@[simp] theorem State.issueOne_fetchOffset (b : Bool) (s : State) : (s.issueOne b).fetchOffset = s.fetchOffset := rfl
@[simp] theorem State.issueOne_iqAgeCounter (b : Bool) (s : State) : (s.issueOne b).iqAgeCounter = s.iqAgeCounter := rfl
@[simp] theorem State.issueOne_completedCount (b : Bool) (s : State) : (s.issueOne b).completedCount = s.completedCount := rfl
@[simp] theorem State.issueOne_wbTags (b : Bool) (s : State) : (s.issueOne b).wbTags = s.wbTags := rfl
@[simp] theorem State.issueOne_isTags (b : Bool) (s : State) : (s.issueOne b).isTags = s.isTags ++ s.ownReg b s.focus.handle := rfl
@[simp] theorem State.issueOne_focus (b : Bool) (s : State) : (s.issueOne b).focus = s.focus := rfl

/-! ### writebackOne -/

@[simp] theorem State.writebackOne_config (b : Bool) (s : State) : (s.writebackOne b).config = s.config := rfl
@[simp] theorem State.writebackOne_recs (b : Bool) (s : State) : (s.writebackOne b).recs = s.recs.modify s.focus.handle (Record.stamp .W s.currentCycle) := rfl
@[simp] theorem State.writebackOne_map (b : Bool) (s : State) : (s.writebackOne b).map = s.map := rfl
@[simp] theorem State.writebackOne_rdy (b : Bool) (s : State) : (s.writebackOne b).rdy = setReady s.rdy (s.ownReg b s.focus.handle) := rfl
@[simp] theorem State.writebackOne_free (b : Bool) (s : State) : (s.writebackOne b).free = s.free := rfl
@[simp] theorem State.writebackOne_iq (b : Bool) (s : State) : (s.writebackOne b).iq = s.iq := rfl
@[simp] theorem State.writebackOne_rob (b : Bool) (s : State) : (s.writebackOne b).rob = markReady s.focus.handle s.rob := rfl
@[simp] theorem State.writebackOne_wbq (b : Bool) (s : State) : (s.writebackOne b).wbq = s.wbq.tail := rfl
@[simp] theorem State.writebackOne_latchF (b : Bool) (s : State) : (s.writebackOne b).latchF = s.latchF := rfl
@[simp] theorem State.writebackOne_latchDc (b : Bool) (s : State) : (s.writebackOne b).latchDc = s.latchDc := rfl
@[simp] theorem State.writebackOne_latchR (b : Bool) (s : State) : (s.writebackOne b).latchR = s.latchR := rfl
@[simp] theorem State.writebackOne_latchDi (b : Bool) (s : State) : (s.writebackOne b).latchDi = s.latchDi := rfl
@[simp] theorem State.writebackOne_currentCycle (b : Bool) (s : State) : (s.writebackOne b).currentCycle = s.currentCycle := rfl
@[simp] theorem State.writebackOne_fetchOffset (b : Bool) (s : State) : (s.writebackOne b).fetchOffset = s.fetchOffset := rfl
@[simp] theorem State.writebackOne_iqAgeCounter (b : Bool) (s : State) : (s.writebackOne b).iqAgeCounter = s.iqAgeCounter := rfl
@[simp] theorem State.writebackOne_completedCount (b : Bool) (s : State) : (s.writebackOne b).completedCount = s.completedCount := rfl
@[simp] theorem State.writebackOne_wbTags (b : Bool) (s : State) : (s.writebackOne b).wbTags = s.wbTags ++ s.ownReg b s.focus.handle := rfl
@[simp] theorem State.writebackOne_isTags (b : Bool) (s : State) : (s.writebackOne b).isTags = s.isTags := rfl
@[simp] theorem State.writebackOne_focus (b : Bool) (s : State) : (s.writebackOne b).focus = s.focus := rfl

/-! ### commitOne -/

@[simp] theorem State.commitOne_config (b : Bool) (s : State) : (s.commitOne b).config = s.config := rfl
@[simp] theorem State.commitOne_recs (b : Bool) (s : State) : (s.commitOne b).recs = s.recs.modify s.focus.handle (Record.stamp .C s.currentCycle) := rfl
@[simp] theorem State.commitOne_map (b : Bool) (s : State) : (s.commitOne b).map = s.map := rfl
@[simp] theorem State.commitOne_rdy (b : Bool) (s : State) : (s.commitOne b).rdy = setReady s.rdy (s.ownReg b s.focus.handle) := rfl
@[simp] theorem State.commitOne_free (b : Bool) (s : State) : (s.commitOne b).free = s.free ++ s.ownReg b s.focus.handle := rfl
@[simp] theorem State.commitOne_iq (b : Bool) (s : State) : (s.commitOne b).iq = s.iq := rfl
@[simp] theorem State.commitOne_rob (b : Bool) (s : State) : (s.commitOne b).rob = s.rob.tail := rfl
@[simp] theorem State.commitOne_wbq (b : Bool) (s : State) : (s.commitOne b).wbq = s.wbq := rfl
@[simp] theorem State.commitOne_latchF (b : Bool) (s : State) : (s.commitOne b).latchF = s.latchF := rfl
@[simp] theorem State.commitOne_latchDc (b : Bool) (s : State) : (s.commitOne b).latchDc = s.latchDc := rfl
@[simp] theorem State.commitOne_latchR (b : Bool) (s : State) : (s.commitOne b).latchR = s.latchR := rfl
@[simp] theorem State.commitOne_latchDi (b : Bool) (s : State) : (s.commitOne b).latchDi = s.latchDi := rfl
@[simp] theorem State.commitOne_currentCycle (b : Bool) (s : State) : (s.commitOne b).currentCycle = s.currentCycle := rfl
@[simp] theorem State.commitOne_fetchOffset (b : Bool) (s : State) : (s.commitOne b).fetchOffset = s.fetchOffset := rfl
@[simp] theorem State.commitOne_iqAgeCounter (b : Bool) (s : State) : (s.commitOne b).iqAgeCounter = s.iqAgeCounter := rfl
@[simp] theorem State.commitOne_completedCount (b : Bool) (s : State) : (s.commitOne b).completedCount = s.completedCount + 1 := rfl
@[simp] theorem State.commitOne_wbTags (b : Bool) (s : State) : (s.commitOne b).wbTags = s.wbTags := rfl
@[simp] theorem State.commitOne_isTags (b : Bool) (s : State) : (s.commitOne b).isTags = s.isTags := rfl
@[simp] theorem State.commitOne_focus (b : Bool) (s : State) : (s.commitOne b).focus = s.focus := rfl

/-! ### wakeup -/

@[simp] theorem State.wakeup_config (s : State) : (s.wakeup).config = s.config := rfl
@[simp] theorem State.wakeup_recs (s : State) : (s.wakeup).recs = s.recs := rfl
@[simp] theorem State.wakeup_map (s : State) : (s.wakeup).map = s.map := rfl
@[simp] theorem State.wakeup_rdy (s : State) : (s.wakeup).rdy = s.rdy := rfl
@[simp] theorem State.wakeup_free (s : State) : (s.wakeup).free = s.free := rfl
@[simp] theorem State.wakeup_iq (s : State) : (s.wakeup).iq = s.iq.map (wakeEntry s.recs (s.wbTags ++ s.isTags)) := rfl
@[simp] theorem State.wakeup_rob (s : State) : (s.wakeup).rob = s.rob := rfl
@[simp] theorem State.wakeup_wbq (s : State) : (s.wakeup).wbq = s.wbq := rfl
@[simp] theorem State.wakeup_latchF (s : State) : (s.wakeup).latchF = s.latchF := rfl
@[simp] theorem State.wakeup_latchDc (s : State) : (s.wakeup).latchDc = s.latchDc := rfl
@[simp] theorem State.wakeup_latchR (s : State) : (s.wakeup).latchR = s.latchR := rfl
@[simp] theorem State.wakeup_latchDi (s : State) : (s.wakeup).latchDi = s.latchDi := rfl
@[simp] theorem State.wakeup_currentCycle (s : State) : (s.wakeup).currentCycle = s.currentCycle := rfl
@[simp] theorem State.wakeup_fetchOffset (s : State) : (s.wakeup).fetchOffset = s.fetchOffset := rfl
@[simp] theorem State.wakeup_iqAgeCounter (s : State) : (s.wakeup).iqAgeCounter = s.iqAgeCounter := rfl
@[simp] theorem State.wakeup_completedCount (s : State) : (s.wakeup).completedCount = s.completedCount := rfl
@[simp] theorem State.wakeup_wbTags (s : State) : (s.wakeup).wbTags = s.wbTags := rfl
@[simp] theorem State.wakeup_isTags (s : State) : (s.wakeup).isTags = s.isTags := rfl
@[simp] theorem State.wakeup_focus (s : State) : (s.wakeup).focus = s.focus := rfl

/-! ### clearDi -/

@[simp] theorem State.clearDi_config (s : State) : (s.clearDi).config = s.config := rfl
@[simp] theorem State.clearDi_recs (s : State) : (s.clearDi).recs = s.recs := rfl
@[simp] theorem State.clearDi_map (s : State) : (s.clearDi).map = s.map := rfl
@[simp] theorem State.clearDi_rdy (s : State) : (s.clearDi).rdy = s.rdy := rfl
@[simp] theorem State.clearDi_free (s : State) : (s.clearDi).free = s.free := rfl
@[simp] theorem State.clearDi_iq (s : State) : (s.clearDi).iq = s.iq := rfl
@[simp] theorem State.clearDi_rob (s : State) : (s.clearDi).rob = s.rob := rfl
@[simp] theorem State.clearDi_wbq (s : State) : (s.clearDi).wbq = s.wbq := rfl
@[simp] theorem State.clearDi_latchF (s : State) : (s.clearDi).latchF = s.latchF := rfl
@[simp] theorem State.clearDi_latchDc (s : State) : (s.clearDi).latchDc = s.latchDc := rfl
@[simp] theorem State.clearDi_latchR (s : State) : (s.clearDi).latchR = s.latchR := rfl
@[simp] theorem State.clearDi_latchDi (s : State) : (s.clearDi).latchDi = emptyLatch s.config.issueWidth := rfl
@[simp] theorem State.clearDi_currentCycle (s : State) : (s.clearDi).currentCycle = s.currentCycle := rfl
@[simp] theorem State.clearDi_fetchOffset (s : State) : (s.clearDi).fetchOffset = s.fetchOffset := rfl
@[simp] theorem State.clearDi_iqAgeCounter (s : State) : (s.clearDi).iqAgeCounter = s.iqAgeCounter := rfl
@[simp] theorem State.clearDi_completedCount (s : State) : (s.clearDi).completedCount = s.completedCount := rfl
@[simp] theorem State.clearDi_wbTags (s : State) : (s.clearDi).wbTags = s.wbTags := rfl
@[simp] theorem State.clearDi_isTags (s : State) : (s.clearDi).isTags = s.isTags := rfl
@[simp] theorem State.clearDi_focus (s : State) : (s.clearDi).focus = s.focus := rfl

/-! ### clearWires -/

@[simp] theorem State.clearWires_config (s : State) : (s.clearWires).config = s.config := rfl
@[simp] theorem State.clearWires_recs (s : State) : (s.clearWires).recs = s.recs := rfl
@[simp] theorem State.clearWires_map (s : State) : (s.clearWires).map = s.map := rfl
@[simp] theorem State.clearWires_rdy (s : State) : (s.clearWires).rdy = s.rdy := rfl
@[simp] theorem State.clearWires_free (s : State) : (s.clearWires).free = s.free := rfl
@[simp] theorem State.clearWires_iq (s : State) : (s.clearWires).iq = s.iq := rfl
@[simp] theorem State.clearWires_rob (s : State) : (s.clearWires).rob = s.rob := rfl
@[simp] theorem State.clearWires_wbq (s : State) : (s.clearWires).wbq = s.wbq := rfl
@[simp] theorem State.clearWires_latchF (s : State) : (s.clearWires).latchF = s.latchF := rfl
@[simp] theorem State.clearWires_latchDc (s : State) : (s.clearWires).latchDc = s.latchDc := rfl
@[simp] theorem State.clearWires_latchR (s : State) : (s.clearWires).latchR = s.latchR := rfl
@[simp] theorem State.clearWires_latchDi (s : State) : (s.clearWires).latchDi = s.latchDi := rfl
@[simp] theorem State.clearWires_currentCycle (s : State) : (s.clearWires).currentCycle = s.currentCycle := rfl
@[simp] theorem State.clearWires_fetchOffset (s : State) : (s.clearWires).fetchOffset = s.fetchOffset := rfl
@[simp] theorem State.clearWires_iqAgeCounter (s : State) : (s.clearWires).iqAgeCounter = s.iqAgeCounter := rfl
@[simp] theorem State.clearWires_completedCount (s : State) : (s.clearWires).completedCount = s.completedCount := rfl
@[simp] theorem State.clearWires_wbTags (s : State) : (s.clearWires).wbTags = [] := rfl
@[simp] theorem State.clearWires_isTags (s : State) : (s.clearWires).isTags = [] := rfl
@[simp] theorem State.clearWires_focus (s : State) : (s.clearWires).focus = s.focus := rfl

/-! ### finish -/

@[simp] theorem State.finish_config (s : State) : (s.finish).config = s.config := rfl
@[simp] theorem State.finish_recs (s : State) : (s.finish).recs = s.recs := rfl
@[simp] theorem State.finish_map (s : State) : (s.finish).map = s.map := rfl
@[simp] theorem State.finish_rdy (s : State) : (s.finish).rdy = s.rdy := rfl
@[simp] theorem State.finish_free (s : State) : (s.finish).free = s.free := rfl
@[simp] theorem State.finish_iq (s : State) : (s.finish).iq = s.iq := rfl
@[simp] theorem State.finish_rob (s : State) : (s.finish).rob = s.rob := rfl
@[simp] theorem State.finish_wbq (s : State) : (s.finish).wbq = s.wbq := rfl
@[simp] theorem State.finish_latchF (s : State) : (s.finish).latchF = s.latchF := rfl
@[simp] theorem State.finish_latchDc (s : State) : (s.finish).latchDc = s.latchDc := rfl
@[simp] theorem State.finish_latchR (s : State) : (s.finish).latchR = s.latchR := rfl
@[simp] theorem State.finish_latchDi (s : State) : (s.finish).latchDi = s.latchDi := rfl
@[simp] theorem State.finish_currentCycle (s : State) : (s.finish).currentCycle = s.currentCycle + 1 := rfl
@[simp] theorem State.finish_fetchOffset (s : State) : (s.finish).fetchOffset = s.fetchOffset := rfl
@[simp] theorem State.finish_iqAgeCounter (s : State) : (s.finish).iqAgeCounter = s.iqAgeCounter := rfl
@[simp] theorem State.finish_completedCount (s : State) : (s.finish).completedCount = s.completedCount := rfl
@[simp] theorem State.finish_wbTags (s : State) : (s.finish).wbTags = [] := rfl
@[simp] theorem State.finish_isTags (s : State) : (s.finish).isTags = [] := rfl
@[simp] theorem State.finish_focus (s : State) : (s.finish).focus = .rest := rfl

/-! ### renameOne -/

@[simp] theorem State.renameOne_config (x y : Operand) (d : Dest) (s : State) : (s.renameOne x y d).config = s.config := by
  unfold State.renameOne; split <;> (try split) <;> rfl
@[simp] theorem State.renameOne_iq (x y : Operand) (d : Dest) (s : State) : (s.renameOne x y d).iq = s.iq := by
  unfold State.renameOne; split <;> (try split) <;> rfl
@[simp] theorem State.renameOne_rob (x y : Operand) (d : Dest) (s : State) : (s.renameOne x y d).rob = s.rob := by
  unfold State.renameOne; split <;> (try split) <;> rfl
@[simp] theorem State.renameOne_wbq (x y : Operand) (d : Dest) (s : State) : (s.renameOne x y d).wbq = s.wbq := by
  unfold State.renameOne; split <;> (try split) <;> rfl
@[simp] theorem State.renameOne_latchF (x y : Operand) (d : Dest) (s : State) : (s.renameOne x y d).latchF = s.latchF := by
  unfold State.renameOne; split <;> (try split) <;> rfl
@[simp] theorem State.renameOne_latchDc (x y : Operand) (d : Dest) (s : State) : (s.renameOne x y d).latchDc = s.latchDc := by
  unfold State.renameOne; split <;> (try split) <;> rfl
@[simp] theorem State.renameOne_latchR (x y : Operand) (d : Dest) (s : State) : (s.renameOne x y d).latchR = s.latchR := by
  unfold State.renameOne; split <;> (try split) <;> rfl
@[simp] theorem State.renameOne_latchDi (x y : Operand) (d : Dest) (s : State) : (s.renameOne x y d).latchDi = s.latchDi := by
  unfold State.renameOne; split <;> (try split) <;> rfl
@[simp] theorem State.renameOne_currentCycle (x y : Operand) (d : Dest) (s : State) : (s.renameOne x y d).currentCycle = s.currentCycle := by
  unfold State.renameOne; split <;> (try split) <;> rfl
@[simp] theorem State.renameOne_fetchOffset (x y : Operand) (d : Dest) (s : State) : (s.renameOne x y d).fetchOffset = s.fetchOffset := by
  unfold State.renameOne; split <;> (try split) <;> rfl
@[simp] theorem State.renameOne_iqAgeCounter (x y : Operand) (d : Dest) (s : State) : (s.renameOne x y d).iqAgeCounter = s.iqAgeCounter := by
  unfold State.renameOne; split <;> (try split) <;> rfl
@[simp] theorem State.renameOne_completedCount (x y : Operand) (d : Dest) (s : State) : (s.renameOne x y d).completedCount = s.completedCount := by
  unfold State.renameOne; split <;> (try split) <;> rfl
@[simp] theorem State.renameOne_wbTags (x y : Operand) (d : Dest) (s : State) : (s.renameOne x y d).wbTags = s.wbTags := by
  unfold State.renameOne; split <;> (try split) <;> rfl
@[simp] theorem State.renameOne_isTags (x y : Operand) (d : Dest) (s : State) : (s.renameOne x y d).isTags = s.isTags := by
  unfold State.renameOne; split <;> (try split) <;> rfl
@[simp] theorem State.renameOne_focus (x y : Operand) (d : Dest) (s : State) : (s.renameOne x y d).focus = s.focus := by
  unfold State.renameOne; split <;> (try split) <;> rfl

/-! ### takeGroup -/

@[simp] theorem State.takeGroup_config (s : State) : s.takeGroup.config = s.config := by
  unfold State.takeGroup; split <;> rfl
@[simp] theorem State.takeGroup_recs (s : State) : s.takeGroup.recs = s.recs := by
  unfold State.takeGroup; split <;> rfl
@[simp] theorem State.takeGroup_map (s : State) : s.takeGroup.map = s.map := by
  unfold State.takeGroup; split <;> rfl
@[simp] theorem State.takeGroup_rdy (s : State) : s.takeGroup.rdy = s.rdy := by
  unfold State.takeGroup; split <;> rfl
@[simp] theorem State.takeGroup_free (s : State) : s.takeGroup.free = s.free := by
  unfold State.takeGroup; split <;> rfl
@[simp] theorem State.takeGroup_iq (s : State) : s.takeGroup.iq = s.iq := by
  unfold State.takeGroup; split <;> rfl
@[simp] theorem State.takeGroup_rob (s : State) : s.takeGroup.rob = s.rob := by
  unfold State.takeGroup; split <;> rfl
@[simp] theorem State.takeGroup_wbq (s : State) : s.takeGroup.wbq = s.wbq := by
  unfold State.takeGroup; split <;> rfl
@[simp] theorem State.takeGroup_latchF (s : State) : s.takeGroup.latchF = s.latchF := by
  unfold State.takeGroup; split <;> rfl
@[simp] theorem State.takeGroup_latchDi (s : State) : s.takeGroup.latchDi = s.latchDi := by
  unfold State.takeGroup; split <;> rfl
@[simp] theorem State.takeGroup_currentCycle (s : State) : s.takeGroup.currentCycle = s.currentCycle := by
  unfold State.takeGroup; split <;> rfl
@[simp] theorem State.takeGroup_fetchOffset (s : State) : s.takeGroup.fetchOffset = s.fetchOffset := by
  unfold State.takeGroup; split <;> rfl
@[simp] theorem State.takeGroup_iqAgeCounter (s : State) : s.takeGroup.iqAgeCounter = s.iqAgeCounter := by
  unfold State.takeGroup; split <;> rfl
@[simp] theorem State.takeGroup_completedCount (s : State) : s.takeGroup.completedCount = s.completedCount := by
  unfold State.takeGroup; split <;> rfl
@[simp] theorem State.takeGroup_wbTags (s : State) : s.takeGroup.wbTags = s.wbTags := by
  unfold State.takeGroup; split <;> rfl
@[simp] theorem State.takeGroup_isTags (s : State) : s.takeGroup.isTags = s.isTags := by
  unfold State.takeGroup; split <;> rfl
@[simp] theorem State.takeGroup_focus (s : State) : s.takeGroup.focus = s.focus := by
  unfold State.takeGroup; split <;> rfl

/-! ### pass: the fields that no stage's handling of one instruction writes -/

@[simp] theorem State.pass_config (i : Instr) (ro : Roles) (s : State) : (s.pass i ro).config = s.config := by
  unfold State.pass; split <;> simp
@[simp] theorem State.pass_currentCycle (i : Instr) (ro : Roles) (s : State) : (s.pass i ro).currentCycle = s.currentCycle := by
  unfold State.pass; split <;> simp
@[simp] theorem State.pass_focus (i : Instr) (ro : Roles) (s : State) : (s.pass i ro).focus = s.focus := by
  unfold State.pass; split <;> simp

end Sys2Proof.Machine
end

