-- ==== Sys2Proof/Laws/Exec.lean ====
section
/-! SUPPORT. What a meaning can answer: for a well-formed record the pass of its roles, for any other the refusal by name;
and what `andThen` and `runAt` answer. Later proofs cite these and unfold neither `exec` nor a meaning. -/

namespace Sys2Proof.Machine

open Sys2Proof

/-! ### andThen -/

@[simp] theorem andThen_next (s : State) (f : State → Out) : andThen (.next s) f = f s := rfl
@[simp] theorem andThen_refused (r : Refusal) (f : State → Out) : andThen (.refused r) f = .refused r := rfl

/-- A sequence answers a next state only through a next state of its first part. -/
theorem andThen_eq_next {o : Out} {f : State → Out} {t : State} :
    andThen o f = .next t ↔ ∃ s, o = .next s ∧ f s = .next t := by
  cases o with
  | next s => simp
  | fault r => cases r
  | refused r => simp

theorem next_inj {s t : State} : (Host.Outcome.next s : Out) = .next t ↔ s = t :=
  ⟨fun h => by injection h, fun h => by rw [h]⟩

/-! ### Registers of a record -/

theorem regInRange_iff {v : Int} : regInRange v = true ↔ 0 ≤ v ∧ v < 32 := by
  unfold regInRange archRegCount
  rw [Bool.and_eq_true, decide_eq_true_iff, decide_eq_true_iff]
  rfl

theorem archReg_eq_some {v : Int} (h : regInRange v = true) :
    archReg v = some ⟨v.toNat, by have := regInRange_iff.1 h; omega⟩ := by
  unfold archReg
  rw [dif_pos (regInRange_iff.1 h)]

theorem archReg_eq_none {v : Int} (h : regInRange v = false) : archReg v = none := by
  unfold archReg
  rw [dif_neg fun hv => by rw [regInRange_iff.2 hv] at h; cases h]

@[simp] theorem archReg_val (a : Fin 32) : archReg ((a.val : Nat) : Int) = some a := by
  have h : (0 : Int) ≤ (a.val : Int) ∧ (a.val : Int) < 32 := by omega
  simp [archReg, h]

@[simp] theorem regInRange_val (a : Fin 32) : regInRange ((a.val : Nat) : Int) = true := by
  rw [regInRange_iff]; omega

/-- The roles of a record: the register operands as indices, which they are in a well-formed record. -/
def rolesOf : Instr → Roles
  | .regOp a b c =>
    { src1 := .reg ((archReg b).getD 0), src2 := .reg ((archReg c).getD 0),
      dst := .ofReg ((archReg a).getD 0), waits := true }
  | .immOp a b v =>
    { src1 := .reg ((archReg b).getD 0), src2 := .imm v, dst := .ofReg ((archReg a).getD 0), waits := true }
  | .load a v c =>
    { src1 := .imm v, src2 := .reg ((archReg c).getD 0), dst := .ofReg ((archReg a).getD 0), waits := true }
  | .store a v c =>
    { src1 := .imm v, src2 := .reg ((archReg c).getD 0), dst := .copy ((archReg a).getD 0), waits := false }

/-- A well-formed record runs: `exec` answers the pass of its roles. -/
theorem exec_wellFormed {i : Instr} (h : i.wellFormed = true) (s : State) :
    exec i s = .next (s.pass i (rolesOf i)) := by
  cases i <;>
    simp only [Instr.wellFormed, Bool.and_eq_true] at h <;>
    simp [exec, execRegOp, execImmOp, execLoad, execStore, rolesOf, archReg_eq_some, h]

/-- A record that is not well formed is refused by name. -/
theorem exec_illFormed {i : Instr} (h : i.wellFormed = false) (s : State) :
    exec i s = .refused .registerOutOfRange := by
  cases i with
  | regOp a b c =>
    simp only [Instr.wellFormed, Bool.and_eq_false_iff] at h
    rcases h with (h | h) | h <;> simp [exec, execRegOp, archReg_eq_none h]
  | immOp a b v =>
    simp only [Instr.wellFormed, Bool.and_eq_false_iff] at h
    rcases h with h | h <;> simp [exec, execImmOp, archReg_eq_none h]
  | load a v c =>
    simp only [Instr.wellFormed, Bool.and_eq_false_iff] at h
    rcases h with h | h <;> simp [exec, execLoad, archReg_eq_none h]
  | store a v c =>
    simp only [Instr.wellFormed, Bool.and_eq_false_iff] at h
    rcases h with h | h <;> simp [exec, execStore, archReg_eq_none h]

/-- All that `exec` can answer a next state with. -/
theorem exec_eq_next {i : Instr} {s t : State} :
    exec i s = .next t ↔ i.wellFormed = true ∧ t = s.pass i (rolesOf i) := by
  cases h : i.wellFormed with
  | true => simp [exec_wellFormed h, eq_comm]
  | false => simp [exec_illFormed h]

/-- The roles say what `produces` says. -/
theorem rolesOf_producing {i : Instr} (h : i.wellFormed = true) :
    (rolesOf i).dst.producing = i.produces := by
  have key : ∀ v : Int, regInRange v = true →
      (Dest.ofReg ((archReg v).getD 0)).producing = (v != 0) := by
    intro v hv
    have hr := regInRange_iff.1 hv
    rw [archReg_eq_some hv, Option.getD_some, Dest.ofReg]
    by_cases h0 : v = 0
    · subst h0; simp [Dest.producing]
    · have : ¬ ((⟨v.toNat, by omega⟩ : Fin 32) = 0) := by
        intro h1
        have h2 : v.toNat = 0 := by simpa using congrArg Fin.val h1
        omega
      rw [if_neg this]
      simp [Dest.producing, h0]
  cases i <;> simp only [Instr.wellFormed, Bool.and_eq_true] at h <;> simp only [rolesOf, Instr.produces]
  · exact key _ h.1.1
  · exact key _ h.1
  · exact key _ h.1
  · rfl

/-! ### Records -/

/-- Modifying the record of a handle is setting it, where there is one. -/
theorem modify_of_getElem? {rs : List Record} {h : Nat} {r : Record} (f : Record → Record) (hr : rs[h]? = some r) :
    rs.modify h f = rs.set h (f r) := by
  obtain ⟨hlt, rfl⟩ := List.getElem?_eq_some_iff.1 hr
  apply List.ext_getElem?
  intro i
  rw [List.getElem?_modify, List.getElem?_set]
  by_cases hi : h = i
  · subst hi; simp [hlt]
  · simp [hi]

/-! ### runAt -/

/-- All that one stage's handling of one handle can answer a next state with. -/
theorem runAt_eq_next {st : Stage} {k h : Nat} {s t : State} :
    runAt st k h s = .next t ↔
      ∃ r, s.recs[h]? = some r ∧ r.instr.wellFormed = true ∧
        t = (s.focusOn st k h).pass r.instr (rolesOf r.instr) := by
  unfold runAt
  cases hr : s.recs[h]? with
  | none => simp
  | some r => simp [exec_eq_next]

/-! ### The pass of each stage -/

@[simp] theorem pass_F (i : Instr) (ro : Roles) (k h : Nat) (s : State) :
    (s.focusOn .F k h).pass i ro = (s.focusOn .F k h).fetchOne i := rfl
@[simp] theorem pass_Dc (i : Instr) (ro : Roles) (k h : Nat) (s : State) :
    (s.focusOn .Dc k h).pass i ro = (s.focusOn .Dc k h).decodeOne := rfl
@[simp] theorem pass_R (i : Instr) (ro : Roles) (k h : Nat) (s : State) :
    (s.focusOn .R k h).pass i ro = (s.focusOn .R k h).renameOne ro.src1 ro.src2 ro.dst := rfl
@[simp] theorem pass_Di (i : Instr) (ro : Roles) (k h : Nat) (s : State) :
    (s.focusOn .Di k h).pass i ro = (s.focusOn .Di k h).dispatchOne ro.waits := rfl
@[simp] theorem pass_IS (i : Instr) (ro : Roles) (k h : Nat) (s : State) :
    (s.focusOn .IS k h).pass i ro = (s.focusOn .IS k h).issueOne ro.dst.producing := rfl
@[simp] theorem pass_W (i : Instr) (ro : Roles) (k h : Nat) (s : State) :
    (s.focusOn .W k h).pass i ro = (s.focusOn .W k h).writebackOne ro.dst.producing := rfl
@[simp] theorem pass_C (i : Instr) (ro : Roles) (k h : Nat) (s : State) :
    (s.focusOn .C k h).pass i ro = (s.focusOn .C k h).commitOne ro.dst.producing := rfl

/-! ### Ready bits -/

@[simp] theorem setReady_length (rdy : List Bool) (ps : List Nat) : (setReady rdy ps).length = rdy.length := by
  induction ps generalizing rdy with
  | nil => rfl
  | cons p ps ih => simpa [setReady] using ih (rdy.set p true)

theorem readyBit_set {rdy : List Bool} {p q : Nat} {b : Bool} (hp : p < rdy.length) :
    readyBit (rdy.set p b) q = if q = p then b else readyBit rdy q := by
  unfold readyBit
  rw [List.getD_eq_getElem?_getD, List.getD_eq_getElem?_getD, List.getElem?_set]
  split
  · next h => subst h; simp
  · next h => rw [if_neg fun e => h e.symm]

/-- The ready bits after `setReady`: true where listed, as before elsewhere. -/
theorem readyBit_setReady {rdy : List Bool} {ps : List Nat} (hps : ∀ p ∈ ps, p < rdy.length) (q : Nat) :
    readyBit (setReady rdy ps) q = (ps.contains q || readyBit rdy q) := by
  induction ps generalizing rdy with
  | nil => simp [setReady]
  | cons p ps ih =>
    have hp : p < rdy.length := hps p (by simp)
    have := ih (rdy := rdy.set p true) (fun x hx => by simpa using hps x (by simp [hx]))
    simp only [setReady, List.foldl_cons] at this ⊢
    rw [this, readyBit_set hp]
    by_cases hq : q = p <;> simp [hq, Bool.or_comm]

end Sys2Proof.Machine
end

