-- ==== Sys2Proof/Laws/Tick.lean ====
section
/-! SUPPORT. One induction for every stage's loop and one for the tick: a property that every single handling keeps, and
every whole-stage operation keeps, is kept by the tick. -/

namespace Sys2Proof.Machine

open Sys2Proof

/-- A property kept by every retirement of a ready head is kept by Commit's walk. -/
theorem commitWalk_keeps {P : State → Prop}
    (hP : ∀ s e rest t, P s → s.rob = e :: rest → e.ready = true → runAt .C 0 e.instrRef s = .next t → P t) :
    ∀ n s t, P s → commitWalk n s = .next t → P t := by
  intro n
  induction n with
  | zero => intro s t hs h; rw [commitWalk, next_inj] at h; exact h ▸ hs
  | succ n ih =>
    intro s t hs h
    rw [commitWalk] at h
    split at h
    · exact next_inj.1 h ▸ hs
    · next e rest hrob =>
      split at h
      · next hr =>
        obtain ⟨u, hu, ht⟩ := andThen_eq_next.1 h
        exact ih u t (hP s e rest u hs hrob hr hu) ht
      · exact next_inj.1 h ▸ hs

/-- A property kept by every drained instruction is kept by Writeback's drain. -/
theorem writebackDrain_keeps {P : State → Prop}
    (hP : ∀ s h rest t, P s → s.wbq = h :: rest → runAt .W 0 h s = .next t → P t) :
    ∀ n s t, P s → writebackDrain n s = .next t → P t := by
  intro n
  induction n with
  | zero => intro s t hs h; rw [writebackDrain, next_inj] at h; exact h ▸ hs
  | succ n ih =>
    intro s t hs h
    rw [writebackDrain] at h
    split at h
    · exact next_inj.1 h ▸ hs
    · next x rest hq =>
      obtain ⟨u, hu, ht⟩ := andThen_eq_next.1 h
      exact ih u t (hP s x rest u hs hq hu) ht

/-- A property of the entries still to issue and the state, kept by every issue, holds at the end for none to issue. -/
theorem issueEach_keeps {P : List IQEntry → State → Prop}
    (hP : ∀ e es s t, P (e :: es) s → runAt .IS 0 e.instrRef s = .next t → P es t) :
    ∀ es s t, P es s → issueEach es s = .next t → P [] t := by
  intro es
  induction es with
  | nil => intro s t hs h; rw [issueEach, next_inj] at h; exact h ▸ hs
  | cons e es ih =>
    intro s t hs h
    rw [issueEach] at h
    obtain ⟨u, hu, ht⟩ := andThen_eq_next.1 h
    exact ih u t (hP e es s u hs hu) ht

/-- A property indexed by the slot reached, kept by passing a slot over and by dispatching it. -/
theorem dispatchSlots_keeps {P : Nat → State → Prop}
    (skip : ∀ k s, P k s → (∀ h, slotAt s.latchR k = some h → s.renamed h = false) → P (k + 1) s)
    (take : ∀ k s h t, P k s → slotAt s.latchR k = some h → s.renamed h = true →
      runAt .Di k h s = .next t → P (k + 1) t) :
    ∀ n k s t, P k s → dispatchSlots n k s = .next t → P (k + n) t := by
  intro n
  induction n with
  | zero => intro k s t hs h; rw [dispatchSlots, next_inj] at h; exact h ▸ hs
  | succ n ih =>
    intro k s t hs h
    rw [show k + (n + 1) = (k + 1) + n by omega]
    rw [dispatchSlots] at h
    split at h
    · next hk => exact ih _ s t (skip k s hs (by simp [hk])) h
    · next x hk =>
      split at h
      · next hr =>
        obtain ⟨u, hu, ht⟩ := andThen_eq_next.1 h
        exact ih _ u t (take k s x u hs hk hr hu) ht
      · next hr => exact ih _ s t (skip k s hs (by simp [hk, hr])) h

/-- A property kept by passing a slot over, by a rename, and by a stall (which ends the stage) holds at the end of
Rename's loop: `P` at the slot reached when none stalled, `Q` when one did. -/
theorem renameSlots_keeps {P : Nat → State → Prop} {Q : State → Prop}
    (skip : ∀ k s, P k s → (∀ h, slotAt s.latchR k = some h → s.renamed h = true) → P (k + 1) s)
    (done : ∀ k s h t, P k s → slotAt s.latchR k = some h → s.renamed h = false →
      runAt .R k h s = .next t → t.renamed h = true → P (k + 1) t)
    (stall : ∀ k s h t, P k s → slotAt s.latchR k = some h → s.renamed h = false →
      runAt .R k h s = .next t → t.renamed h = false → Q t) :
    ∀ n k s t, P k s → renameSlots n k s = .next t → P (k + n) t ∨ Q t := by
  intro n
  induction n with
  | zero => intro k s t hs h; rw [renameSlots, next_inj] at h; exact .inl (h ▸ hs)
  | succ n ih =>
    intro k s t hs h
    rw [show k + (n + 1) = (k + 1) + n by omega]
    rw [renameSlots] at h
    split at h
    · next hk => exact ih _ s t (skip k s hs (by simp [hk])) h
    · next x hk =>
      split at h
      · next hr => exact ih _ s t (skip k s hs (by simp [hk, hr])) h
      · next hr =>
        obtain ⟨u, hu, ht⟩ := andThen_eq_next.1 h
        have hr' : s.renamed x = false := by simpa using hr
        split at ht
        · next hu' => exact ih _ u t (done k s x u hs hk hr' hu hu') ht
        · next hu' => exact .inr (next_inj.1 ht ▸ stall k s x u hs hk hr' hu (by simpa using hu'))

/-- A property indexed by the slot reached, kept by an empty slot and by a move. -/
theorem decodeSlots_keeps {P : Nat → State → Prop}
    (skip : ∀ k s, P k s → slotAt s.latchF k = none → P (k + 1) s)
    (take : ∀ k s h t, P k s → slotAt s.latchF k = some h → runAt .Dc k h s = .next t → P (k + 1) t) :
    ∀ n k s t, P k s → decodeSlots n k s = .next t → P (k + n) t := by
  intro n
  induction n with
  | zero => intro k s t hs h; rw [decodeSlots, next_inj] at h; exact h ▸ hs
  | succ n ih =>
    intro k s t hs h
    rw [show k + (n + 1) = (k + 1) + n by omega]
    rw [decodeSlots] at h
    split at h
    · next hk => exact ih _ s t (skip k s hs hk) h
    · next x hk =>
      obtain ⟨u, hu, ht⟩ := andThen_eq_next.1 h
      exact ih _ u t (take k s x u hs hk hu) ht

/-- A property indexed by the slot reached, kept by every fetch; the loop also ends where the trace does. -/
theorem fetchSlots_keeps {P : Nat → State → Prop} {Q : State → Prop}
    (take : ∀ k s i t, P k s → s.config.trace[s.fetchOffset]? = some i →
      exec i (s.focusOn .F k s.fetchOffset) = .next t → P (k + 1) t)
    (stop : ∀ k s, P k s → s.config.trace[s.fetchOffset]? = none → Q s) :
    ∀ n k s t, P k s → fetchSlots n k s = .next t → P (k + n) t ∨ Q t := by
  intro n
  induction n with
  | zero => intro k s t hs h; rw [fetchSlots, next_inj] at h; exact .inl (h ▸ hs)
  | succ n ih =>
    intro k s t hs h
    rw [show k + (n + 1) = (k + 1) + n by omega]
    rw [fetchSlots] at h
    split at h
    · next hk => exact .inr (next_inj.1 h ▸ stop k s hs hk)
    · next i hk =>
      obtain ⟨u, hu, ht⟩ := andThen_eq_next.1 h
      exact ih _ u t (take k s i u hs hk hu) ht

/-- The stages of a tick that answers a next state, one after the other. -/
theorem tick_eq_next {s t : State} (h : tick s = .next t) :
    ∃ s₁ s₂ s₃ s₄ s₅ s₆ s₇,
      commitStage s.clearWires = .next s₁ ∧ writebackStage s₁ = .next s₂ ∧ issueStage s₂ = .next s₃ ∧
      dispatchStage s₃ = .next s₄ ∧ renameStage s₄ = .next s₅ ∧ decodeStage s₅ = .next s₆ ∧
      fetchStage s₆ = .next s₇ ∧ t = s₇.finish := by
  obtain ⟨s₆, h₆, h⟩ := andThen_eq_next.1 h
  obtain ⟨s₇, h₇, h⟩ := andThen_eq_next.1 h
  obtain ⟨s₁, h₁, h₆⟩ := andThen_eq_next.1 h₆
  obtain ⟨s₂, h₂, h₆⟩ := andThen_eq_next.1 h₆
  obtain ⟨s₃, h₃, h₆⟩ := andThen_eq_next.1 h₆
  obtain ⟨s₄, h₄, h₆⟩ := andThen_eq_next.1 h₆
  obtain ⟨s₅, h₅, h₆⟩ := andThen_eq_next.1 h₆
  exact ⟨s₁, s₂, s₃, s₄, s₅, s₆, s₇, h₁, h₂, h₃, h₄, h₅, h₆, h₇, (next_inj.1 h).symm⟩

/-- All that a clock edge without reset can answer a next state with. -/
theorem advance_eq_next {s t : State} (h : advance s = .next t) :
    configRefusal s.config = none ∧ ((s.done = true ∧ t = s) ∨ (s.done = false ∧ tick s = .next t)) := by
  unfold advance at h
  split at h
  · cases h
  · next hc =>
    refine ⟨hc, ?_⟩
    split at h
    · next hd => exact .inl ⟨hd, (next_inj.1 h).symm⟩
    · next hd => exact .inr ⟨by simpa using hd, h⟩

/-- A property that the handling of any one instruction at any stage keeps (Fetch apart, whose instruction comes from the
trace), and the whole-stage operations keep, is kept
by the tick. -/
theorem tick_keeps {P : State → Prop}
    (clearWires : ∀ s, P s → P s.clearWires) (finish : ∀ s, P s → P s.finish)
    (wakeup : ∀ s, P s → P s.wakeup) (clearDi : ∀ s, P s → P s.clearDi) (takeGroup : ∀ s, P s → P s.takeGroup)
    (run : ∀ st k h s t, st ≠ .F → P s → runAt st k h s = .next t → P t)
    (fetch : ∀ i k s t, P s → s.config.trace[s.fetchOffset]? = some i →
      exec i (s.focusOn .F k s.fetchOffset) = .next t → P t)
    {s t : State} (hs : P s) (h : tick s = .next t) : P t := by
  obtain ⟨s₁, s₂, s₃, s₄, s₅, s₆, s₇, h₁, h₂, h₃, h₄, h₅, h₆, h₇, rfl⟩ := tick_eq_next h
  have p₁ : P s₁ := commitWalk_keeps (fun s e _ t hs _ _ hr => run _ _ _ s t (by decide) hs hr) _ _ _ (clearWires s hs) h₁
  have p₂ : P s₂ := writebackDrain_keeps (fun s x _ t hs _ hr => run _ _ _ s t (by decide) hs hr) _ _ _ p₁ h₂
  have p₃ : P s₃ := by
    obtain ⟨u, hu, h₃⟩ := andThen_eq_next.1 h₃
    have : P u := issueEach_keeps (P := fun _ s => P s) (fun _ _ s t hs hr => run _ _ _ s t (by decide) hs hr) _ _ _ p₂ hu
    exact next_inj.1 h₃ ▸ wakeup u this
  have p₄ : P s₄ := dispatchSlots_keeps (P := fun _ s => P s) (fun _ _ hs _ => hs)
    (fun _ s _ t hs _ _ hr => run _ _ _ s t (by decide) hs hr) _ _ _ _ (clearDi s₃ p₃) h₄
  have p₅ : P s₅ := (renameSlots_keeps (P := fun _ s => P s) (Q := P) (fun _ _ hs _ => hs)
    (fun _ s _ t hs _ _ hr _ => run _ _ _ s t (by decide) hs hr) (fun _ s _ t hs _ _ hr _ => run _ _ _ s t (by decide) hs hr)
    _ _ _ _ (takeGroup s₄ p₄) h₅).elim id id
  have p₆ : P s₆ := by
    unfold decodeStage at h₆
    split at h₆
    · exact decodeSlots_keeps (P := fun _ s => P s) (fun _ _ hs _ => hs)
        (fun _ s _ t hs _ hr => run _ _ _ s t (by decide) hs hr) _ _ _ _ p₅ h₆
    · exact next_inj.1 h₆ ▸ p₅
  have p₇ : P s₇ := by
    unfold fetchStage at h₇
    split at h₇
    · exact (fetchSlots_keeps (P := fun _ s => P s) (Q := P) (fun k s i t hs hi hr => fetch i k s t hs hi hr)
        (fun _ _ hs _ => hs) _ _ _ _ p₆ h₇).elim id id
    · exact next_inj.1 h₇ ▸ p₆
  exact finish s₇ p₇

end Sys2Proof.Machine
end

