-- ==== Sys2Proof/Laws/Boundary.lean ====
section
/-! SUPPORT. What the decoder, the boundary and a renaming can answer, each said once. -/

namespace Sys2Proof

/-! ### Decoding one word -/

/-- All that makes `decodeWord` answer a record. -/
theorem decodeWord_eq_record {w : Word} {i : Instr} :
    decodeWord w = .record i ↔ decodeFields w = some i ∧ i.wellFormed = true := by
  unfold decodeWord
  cases decodeFields w with
  | none => simp
  | some j =>
    cases h : j.wellFormed with
    | true =>
      simp only [h, if_true, Decoded.record.injEq, Option.some.injEq]
      exact ⟨fun e => ⟨e, e ▸ h⟩, fun e => e.1⟩
    | false =>
      constructor
      · intro e; simp [h] at e
      · rintro ⟨e, hi⟩
        cases e
        rw [h] at hi
        cases hi

/-- All that makes `decodeWord` refuse a record for its operands. -/
theorem decodeWord_eq_registerOutOfRange {w : Word} {i : Instr} :
    decodeWord w = .registerOutOfRange i ↔ decodeFields w = some i ∧ i.wellFormed = false := by
  unfold decodeWord
  cases decodeFields w with
  | none => simp
  | some j =>
    cases h : j.wellFormed with
    | true =>
      constructor
      · intro e; simp [h] at e
      · rintro ⟨e, hi⟩
        cases e
        rw [h] at hi
        cases hi
    | false =>
      simp only [h, Option.some.injEq]
      exact ⟨fun e => by simp only [Bool.false_eq_true, if_false, Decoded.registerOutOfRange.injEq] at e; exact ⟨e, e ▸ h⟩,
        fun e => by simp [e.1]⟩

/-- All that makes the fields of a word name a record. -/
theorem decodeFields_eq_some {w : Word} {i : Instr} :
    decodeFields w = some i ↔ ∃ k, kindOfCode (kindField w) = some k ∧
      i = k.record (sext8 (field1 w)) (sext8 (field2 w)) (sext8 (field3 w)) := by
  unfold decodeFields
  cases kindOfCode (kindField w) with
  | none => simp
  | some k => simp [eq_comm]

@[simp] theorem kindOfCode_kindCode (k : Kind) : kindOfCode (kindCode k) = some k := by cases k <;> rfl

@[simp] theorem Kind.record_kind (k : Kind) (a b c : Int) : (k.record a b c).kind = k := by cases k <;> rfl
@[simp] theorem Kind.record_op1 (k : Kind) (a b c : Int) : (k.record a b c).op1 = a := by cases k <;> rfl
@[simp] theorem Kind.record_op2 (k : Kind) (a b c : Int) : (k.record a b c).op2 = b := by cases k <;> rfl
@[simp] theorem Kind.record_op3 (k : Kind) (a b c : Int) : (k.record a b c).op3 = c := by cases k <;> rfl

end Sys2Proof

namespace Sys2Proof.Machine

open Sys2Proof

/-! ### The configuration check and reset -/

/-- A configuration has runs exactly when it is legal. -/
theorem configRefusal_eq_none {c : Config} : configRefusal c = none ↔ c.legal = true := by
  unfold configRefusal Config.legal
  cases c.widthsLegal <;> cases c.traceWellFormed <;> simp

/-- All that a reset can answer a next state with. -/
theorem resetFor_eq_next {c : Config} {t : State} :
    resetFor c = .next t ↔ c.legal = true ∧ t = State.init c := by
  unfold resetFor
  cases h : configRefusal c with
  | none => simp [configRefusal_eq_none.1 h, eq_comm]
  | some r =>
    have : c.legal ≠ true := fun hl => by rw [configRefusal_eq_none.2 hl] at h; cases h
    simp [this]

/-- All that a clock edge can answer a next state with. -/
theorem clockEdge_eq_next {rst : Option Config} {s t : State} (h : clockEdge rst s = .next t) :
    (∃ c, rst = some c ∧ c.legal = true ∧ t = State.init c) ∨ (rst = none ∧ advance s = .next t) := by
  cases rst with
  | none => exact .inr ⟨rfl, h⟩
  | some c =>
    obtain ⟨hl, ht⟩ := resetFor_eq_next.1 h
    exact .inl ⟨c, rfl, hl, ht⟩

/-- A run that a boot starts is the reset state of a legal configuration, whose trace is the known lines. -/
theorem boot_eq_next {x : Input} {t : State} (h : boot x = .next t) :
    ∃ p w ls, x = .lines (some (p, w)) ls ∧ 0 < p ∧ 0 < w ∧
      t.config = { issueWidth := w.toNat, physRegCount := p.toNat, trace := ls.filterMap Line.record } ∧
      t.config.legal = true ∧ t = State.init t.config := by
  match x with
  | .missing => cases h
  | .lines none _ => cases h
  | .lines (some (p, w)) ls =>
    simp only [boot] at h
    split at h
    · next hpw =>
      obtain ⟨hl, rfl⟩ := resetFor_eq_next.1 h
      exact ⟨p, w, ls, rfl, hpw.1, hpw.2, rfl, hl, rfl⟩
    · cases h

/-- A row of the reporter is the fetch index and the seven stamps of its record, every one of them set. -/
theorem row_eq_some {r : Record} {x : Nat × List Nat} (h : r.row = some x) :
    r.fetchIndex = some x.1 ∧
      x.2.map some = [r.cycle.F, r.cycle.Dc, r.cycle.R, r.cycle.Di, r.cycle.IS, r.cycle.W, r.cycle.C] := by
  unfold Record.row at h
  split at h
  · cases h; simp_all
  · cases h

/-! ### Renaming one slot -/

/-- All that the rename of one slot does: a stall that changes nothing, a register taken from the head of the free list,
or a completion that takes none. -/
theorem renameOne_cases (x y : Operand) (d : Dest) (s : State) :
    (d.producing = true ∧ s.free = [] ∧ s.renameOne x y d = s) ∨
    (∃ a p rest, d = .alloc a ∧ s.free = p :: rest ∧
      s.renameOne x y d =
        { s with recs := s.completeRename x y p, map := s.map.set a p, rdy := s.rdy.set p false, free := rest }) ∨
    (d = .zero ∧ s.renameOne x y d = { s with recs := s.completeRename x y 0 }) ∨
    (∃ a, d = .copy a ∧ s.renameOne x y d = { s with recs := s.completeRename x y s.map[a] }) := by
  cases d with
  | alloc a =>
    cases hf : s.free with
    | nil => exact .inl ⟨rfl, rfl, by simp [State.renameOne, hf]⟩
    | cons p rest => exact .inr (.inl ⟨a, p, rest, rfl, rfl, by simp [State.renameOne, hf]⟩)
  | zero => exact .inr (.inr (.inl ⟨rfl, rfl⟩))
  | copy a => exact .inr (.inr (.inr ⟨a, rfl, rfl⟩))

/-! ### Stamps -/

@[simp] theorem Stamps.get_put (c : Stamps) (st : Stage) (t : Nat) : (c.put st t).get st = some t := by
  cases st <;> rfl

/-- A stamp of one stage leaves the stamps of the others alone. -/
theorem Stamps.get_put_of_ne (c : Stamps) {st st' : Stage} (t : Nat) (h : st' ≠ st) :
    (c.put st t).get st' = c.get st' := by
  cases st <;> cases st' <;> first | rfl | exact absurd rfl h

end Sys2Proof.Machine
end

