-- ==== Sys2Proof/Laws/PerInstr.lean ====
section
/-! SUPPORT. Statements about each instruction as syntax. -/

namespace Sys2Proof.Laws

/-- A record is its kind and its three operands (30_encoding.md R80), and its stored form is four bytes of which the
first is the kind letter and the others are the operands in order (R83, 20_memory.md R63). -/
def FormIsKindAndOperands.Statement (i : Instr) : Prop :=
  i.kind.record i.op1 i.op2 i.op3 = i ∧
    encode i = [kindCode i.kind, fieldOf i.op1, fieldOf i.op2, fieldOf i.op3] ∧ (encode i).length = 4

theorem FormIsKindAndOperands.regOp (a b c : Int) : FormIsKindAndOperands.Statement (.regOp a b c) := ⟨rfl, rfl, rfl⟩

theorem FormIsKindAndOperands.immOp (a b c : Int) : FormIsKindAndOperands.Statement (.immOp a b c) := ⟨rfl, rfl, rfl⟩

theorem FormIsKindAndOperands.load (a b c : Int) : FormIsKindAndOperands.Statement (.load a b c) := ⟨rfl, rfl, rfl⟩

theorem FormIsKindAndOperands.store (a b c : Int) : FormIsKindAndOperands.Statement (.store a b c) := ⟨rfl, rfl, rfl⟩

end Sys2Proof.Laws
end

