-- ==== Sys2Proof/Tests/Slice0.lean ====
section
/-! SUPPORT. Tests on single words, single operations and single steps, with the numbers of 95_test_vectors.md, and one
witness for every statement that has hypotheses. -/

namespace Sys2Proof.Tests

open Sys2Proof Sys2Proof.Machine

/-! ### Well-formedness: each check refuses an ill-formed term -/

theorem test_regOp_operands_checked :
    (Instr.regOp (-1) 0 0).wellFormed = false ∧ (Instr.regOp 0 32 0).wellFormed = false ∧
    (Instr.regOp 0 0 32).wellFormed = false ∧ (Instr.regOp 31 31 31).wellFormed = true := by decide

theorem test_immOp_operands_checked :
    (Instr.immOp 32 0 0).wellFormed = false ∧ (Instr.immOp 0 (-1) 0).wellFormed = false ∧
    (Instr.immOp 31 0 300).wellFormed = true := by decide

theorem test_load_operands_checked :
    (Instr.load 32 0 0).wellFormed = false ∧ (Instr.load 0 0 (-1)).wellFormed = false ∧
    (Instr.load 0 (-300) 31).wellFormed = true := by decide

theorem test_store_operands_checked :
    (Instr.store (-1) 0 0).wellFormed = false ∧ (Instr.store 0 0 32).wellFormed = false ∧
    (Instr.store 31 300 0).wellFormed = true := by decide

theorem test_immediate_bounds_checked :
    (Instr.immOp 0 0 128).encodable = false ∧ (Instr.load 0 (-129) 0).encodable = false ∧
    (Instr.store 0 128 0).encodable = false ∧ (Instr.immOp 0 0 127).encodable = true ∧
    (Instr.load 0 (-128) 0).encodable = true := by decide

theorem test_configuration_checked :
    Config.legal ⟨0, 33, []⟩ = false ∧ Config.legal ⟨1, 32, []⟩ = false ∧
    Config.legal ⟨1, 33, [.regOp 32 0 0]⟩ = false ∧ Config.legal ⟨1, 33, [.regOp 31 0 0]⟩ = true := by decide

/-! ### Decoding: words written out from 30_encoding.md R83 -/

/-- `R,31,1,2`: 01010010 then 31, 1, 2. -/
theorem test_decode_R : decodeWord 0b01010010000111110000000100000010 = .record (.regOp 31 1 2) := by decide

/-- `I,2,3,-1`: 01001001 then 2, 3, and 11111111. -/
theorem test_decode_I : decodeWord 0b01001001000000100000001111111111 = .record (.immOp 2 3 (-1)) := by decide

/-- `L,5,-128,6`: 01001100 then 5, 10000000, and 6. -/
theorem test_decode_L : decodeWord 0b01001100000001011000000000000110 = .record (.load 5 (-128) 6) := by decide

/-- `S,7,127,8`: 01010011 then 7, 01111111, and 8. -/
theorem test_decode_S : decodeWord 0b01010011000001110111111100001000 = .record (.store 7 127 8) := by decide

/-- The words that are not instructions (95_test_vectors.md section 2). -/
theorem test_decode_refused :
    decodeWord 0x41010203 = .unknownKind 0x41 ∧ decodeWord 0x52200000 = .registerOutOfRange (.regOp 32 0 0) ∧
    decodeWord 0x52FF0000 = .registerOutOfRange (.regOp (-1) 0 0) ∧
    decodeWord 0x49012005 = .registerOutOfRange (.immOp 1 32 5) ∧
    decodeWord 0x49010080 = .record (.immOp 1 0 (-128)) := by decide

theorem test_decode_bytes :
    decode [0x4C, 0x01, 0x08, 0x02, 0x53] = (.record (.load 1 8 2), [0x53]) ∧
    decode [0x4C, 0x01, 0x08] = (.truncated, [0x4C, 0x01, 0x08]) := by decide

theorem test_decodeTableWord :
    decodeTableWord 32 0x53010002 = some (.store 1 0 2) ∧ decodeTableWord 32 0x72010203 = none := by decide

/-- Vector V-K: a line of unknown kind is dropped. -/
theorem test_unknown_kind_dropped :
    traceOfWords [0x52010203, 0x58090909, 0x52040506] = some [.regOp 1 2 3, .regOp 4 5 6] := by decide

/-! ### Small states -/

/-- What a property of the next state is, if there is one. -/
def nextOf {α : Type} (o : Out) (f : State → α) : Option α :=
  match o with
  | .next s => some (f s)
  | .fault _ => none
  | .refused _ => none

/-- Why there is no next state, where it is a refusal. -/
def refusalOf (o : Out) : Option Refusal :=
  match o with
  | .next _ => none
  | .fault _ => none
  | .refused r => some r

/-- The stamps that a prefix of the seven numbers sets. -/
def stampsOf (ts : List Nat) : Stamps :=
  { F := ts[0]?, Dc := ts[1]?, R := ts[2]?, Di := ts[3]?, IS := ts[4]?, W := ts[5]?, C := ts[6]? }

/-- A record that has been fetched and not renamed. -/
def fetched (j : Nat) (i : Instr) (ts : List Nat) : Record :=
  { Record.fresh i with fetchIndex := some j, cycle := stampsOf ts }

/-- A record that has been renamed. -/
def renamedTo (j : Nat) (i : Instr) (x y : Src) (p : Nat) (ts : List Nat) : Record :=
  { fetched j i ts with physDst := some p, physSrc1 := some x, physSrc2 := some y }

/-- The reset state of `W = 2`, `P = 34` with the given records in the table. -/
def withRecords (rs : List Record) : State :=
  { State.init { issueWidth := 2, physRegCount := 34, trace := rs.map Record.instr } with
    recs := rs, fetchOffset := rs.length }

/-- One instruction pending in slot 0 of latch `R`, the cursor on it. -/
def pendingIn (i : Instr) : State :=
  { withRecords [fetched 0 i [0, 1]] with
    latchR := [some 0, none], currentCycle := 2, focus := ⟨.R, 0, 0⟩ }

/-- The tables after vector RN2: no register free, `map[1] = 33`. -/
def afterRN2 (s : State) : State :=
  { s with free := [], map := s.map.set 1 33, rdy := (s.rdy.set 32 false).set 33 false }

/-- One renamed instruction in slot 0 of latch `R`, `rdy[32]` false, the cursor on it. -/
def renamedIn (i : Instr) (x y : Src) (p : Nat) : State :=
  { withRecords [renamedTo 0 i x y p [0, 1, 2]] with
    latchR := [some 0, none], currentCycle := 3, focus := ⟨.Di, 0, 0⟩
    rdy := (List.replicate 34 true).set 32 false }

/-- The fields that Rename writes in a record. -/
structure Renamed where
  src1 : Option Src
  src2 : Option Src
  dst : Option Nat
  stamp : Option Nat
  deriving DecidableEq, Repr

/-- What Rename has written in each record. -/
def renameOf (s : State) : List Renamed :=
  s.recs.map fun r => ⟨r.physSrc1, r.physSrc2, r.physDst, r.cycle.R⟩

/-- What Rename leaves unwritten in a slot that stalls or is fenced. -/
def notRenamed : Renamed := ⟨none, none, none, none⟩

/-! ### One step of one instruction -/

/-- RN1. -/
theorem test_R_rename : nextOf (exec (.regOp 1 2 3) (pendingIn (.regOp 1 2 3))) (fun t =>
      (renameOf t, t.free, t.map[1], readyBit t.rdy 32)) =
    some ([⟨some (.reg 2), some (.reg 3), some 32, some 2⟩], [33], 32, false) := by decide

/-- DF1: one flag from each source's ready bit. -/
theorem test_R_dispatch :
    nextOf (exec (.regOp 1 2 3) (renamedIn (.regOp 1 2 3) (.reg 32) (.reg 33) 33)) (fun t => (t.iq, t.rob)) =
    some ([⟨0, false, true, 0⟩], [⟨0, false, false⟩]) := by decide

/-- The immediate passes, with the sources read before the destination is mapped (`op1 = op2`). -/
theorem test_I_rename : nextOf (exec (.immOp 5 5 9) (pendingIn (.immOp 5 5 9))) (fun t =>
      (renameOf t, t.free, t.map[5])) =
    some ([⟨some (.reg 5), some (.imm 9), some 32, some 2⟩], [33], 32) := by decide

/-- DF4: `imm(32)` is not register 32. -/
theorem test_I_dispatch :
    nextOf (exec (.immOp 1 0 32) (renamedIn (.immOp 1 0 32) (.reg 0) (.imm 32) 33)) (fun t => t.iq) =
    some [⟨0, true, true, 0⟩] := by decide

/-- RN3: a producing load stalls with the free list empty; RN5: a zero destination does not. -/
theorem test_L_rename :
    nextOf (exec (.load 2 4 1) (afterRN2 (pendingIn (.load 2 4 1)))) (fun t => renameOf t) =
      some [notRenamed] ∧
    nextOf (exec (.load 0 4 1) (afterRN2 (pendingIn (.load 0 4 1)))) (fun t => (renameOf t, t.free)) =
      some ([⟨some (.imm 4), some (.reg 33), some 0, some 2⟩], []) := by decide

/-- DF5. -/
theorem test_L_dispatch :
    nextOf (exec (.load 1 8 2) (renamedIn (.load 1 8 2) (.imm 8) (.reg 32) 33)) (fun t => t.iq) =
    some [⟨0, true, false, 0⟩] := by decide

/-- RN4: a store copies the mapping and needs no register. -/
theorem test_S_rename :
    nextOf (exec (.store 1 4 2) (afterRN2 (pendingIn (.store 1 4 2)))) (fun t => (renameOf t, t.free, t.map[1])) =
    some ([⟨some (.imm 4), some (.reg 2), some 33, some 2⟩], [], 33) := by decide

/-- DF6: both flags true whatever the ready table says. -/
theorem test_S_dispatch :
    nextOf (exec (.store 1 0 2) (renamedIn (.store 1 0 2) (.imm 0) (.reg 32) 32)) (fun t => t.iq) =
    some [⟨0, true, true, 0⟩] := by decide

/-! ### One step of a stage -/

/-- IS3 and IS4: a Writeback tag wakes after the select pass; a store puts no tag on the bus. -/
def issueStore : State :=
  { withRecords [renamedTo 0 (.store 1 0 2) (.imm 0) (.reg 2) 33 [0, 1, 2, 3],
                 renamedTo 1 (.regOp 4 1 5) (.reg 33) (.reg 32) 33 [0, 1, 2, 3]] with
    iq := [⟨0, true, true, 0⟩, ⟨1, false, false, 1⟩], wbTags := [32], currentCycle := 4 }

theorem test_issue :
    nextOf (issueStage issueStore) (fun t => (t.iq, t.wbq, t.isTags)) =
    some ([⟨1, false, true, 1⟩], [0], []) := by decide

/-- WB1, with indices from 0: the store's `phys_dst` is the producer's register. -/
def writebackPair : State :=
  { withRecords [renamedTo 0 (.regOp 1 2 3) (.reg 2) (.reg 3) 32 [0, 1, 2, 3, 4],
                 renamedTo 1 (.store 1 0 2) (.imm 0) (.reg 2) 33 [0, 1, 2, 3, 4]] with
    wbq := [0, 1], rob := [⟨0, false, false⟩, ⟨1, false, false⟩], currentCycle := 5
    rdy := ((List.replicate 34 true).set 32 false).set 33 false }

theorem test_writeback :
    nextOf (writebackStage writebackPair) (fun t =>
      (t.wbq, t.rob, t.wbTags, readyBit t.rdy 32, readyBit t.rdy 33)) =
    some ([], [⟨0, true, false⟩, ⟨1, true, false⟩], [32], true, false) := by decide

/-- CM1, with indices from 0: two of three ready entries retire at `W = 2`. -/
def commitThree : State :=
  { withRecords [renamedTo 0 (.regOp 1 2 3) (.reg 2) (.reg 3) 32 [0, 1, 2, 3, 4, 5],
                 renamedTo 1 (.load 2 8 3) (.imm 8) (.reg 3) 33 [0, 1, 2, 3, 4, 5],
                 renamedTo 2 (.store 1 0 2) (.imm 0) (.reg 2) 32 [0, 1, 2, 3, 4, 5]] with
    rob := [⟨0, true, false⟩, ⟨1, true, false⟩, ⟨2, true, false⟩], free := [38], currentCycle := 6 }

theorem test_commit :
    nextOf (commitStage commitThree) (fun t => (t.free, t.completedCount, t.rob)) =
    some ([38, 32, 33], 2, [⟨2, true, false⟩]) := by decide

/-- RN6: the slot to the right of a stalled one is fenced, although a store needs no register. -/
def fencedGroup : State :=
  { afterRN2 (withRecords [fetched 0 (.load 2 4 1) [0, 1], fetched 1 (.store 1 4 2) [0, 1]]) with
    latchDc := [some 0, some 1], currentCycle := 2 }

theorem test_rename_fence :
    nextOf (renameStage fencedGroup) (fun t => (renameOf t, t.latchR, t.latchDc)) =
    some ([notRenamed, notRenamed], [some 0, some 1], [none, none]) := by decide

/-! ### One step of the machine -/

theorem test_step_fetches_the_word :
    nextOf (step (State.reset.withFetchWord 32 0x52010203)) (fun t =>
      (t.recs.map fun r => (r.instr, r.fetchIndex, r.cycle.F), t.latchF, t.currentCycle)) =
    some ([(.regOp 1 2 3, some 0, some 0)], [some 0, none], 1) := by decide

theorem test_step_refuses_a_bad_operand :
    refusalOf (step (State.reset.withFetchWord 32 0x52200000)) = some .registerOutOfRange := by decide

theorem test_boot :
    nextOf (boot (.lines (some (34, 2)) [⟨'R', 1, 2, 3⟩, ⟨'X', 9, 9, 9⟩, ⟨'R', 4, 5, 6⟩])) (fun t => t.config) =
      some ⟨2, 34, [.regOp 1 2 3, .regOp 4 5 6]⟩ ∧
    refusalOf (boot (.lines (some (32, 2)) [])) = some .illegalConfiguration ∧
    refusalOf (boot (.lines (some (34, 0)) [])) = some .malformedHeader := by decide

/-! ### States for the witnesses -/

/-- The trace of the stall at `W = 1`, `P = 33`: four independent producers. -/
def fourProducers : List Instr := [.regOp 1 0 0, .regOp 2 0 0, .regOp 3 0 0, .regOp 4 0 0]

/-- The boundary after tick 4: instruction 0 issued, 1 stalled in `R`, 2 held in `Dc`, 3 held in `F`. -/
def stalled : State :=
  { State.init { issueWidth := 1, physRegCount := 33, trace := fourProducers } with
    recs := [renamedTo 0 (.regOp 1 0 0) (.reg 0) (.reg 0) 32 [0, 1, 2, 3, 4], fetched 1 (.regOp 2 0 0) [1, 2],
             fetched 2 (.regOp 3 0 0) [2, 3], fetched 3 (.regOp 4 0 0) [3]]
    map := identityMap.set 1 32, rdy := (List.replicate 33 true).set 32 false, free := []
    wbq := [0], rob := [⟨0, false, false⟩], latchR := [some 1], latchDc := [some 2], latchF := [some 3]
    currentCycle := 5, fetchOffset := 4, iqAgeCounter := 1 }

/-- Vector V-D at its end: one store, done after seven ticks. -/
def finished : State :=
  { State.init { issueWidth := 1, physRegCount := 34, trace := [.store 1 0 2] } with
    recs := [renamedTo 0 (.store 1 0 2) (.imm 0) (.reg 2) 1 [0, 1, 2, 3, 4, 5, 6]]
    currentCycle := 7, fetchOffset := 1, iqAgeCounter := 1, completedCount := 1 }

/-- Program P4 after tick 8: the self-wait hang. -/
def hung : State :=
  { State.init { issueWidth := 1, physRegCount := 33, trace := [.regOp 1 1 1, .regOp 1 1 1] } with
    recs := [renamedTo 0 (.regOp 1 1 1) (.reg 1) (.reg 1) 32 [0, 1, 2, 3, 4, 5, 6],
             renamedTo 1 (.regOp 1 1 1) (.reg 32) (.reg 32) 32 [1, 2, 6, 7]]
    map := identityMap.set 1 32, rdy := (List.replicate 33 true).set 32 false, free := []
    iq := [⟨1, false, false, 1⟩], rob := [⟨1, false, false⟩]
    currentCycle := 9, fetchOffset := 2, iqAgeCounter := 2, completedCount := 1 }

theorem stalled_shaped : Shaped stalled := by constructor <;> decide
theorem stalled_ordered : Ordered stalled := by constructor <;> decide
theorem stalled_timed : Timed stalled := by constructor <;> decide
theorem stalled_registers : RegistersSound stalled := by constructor <;> decide

theorem stalled_dependences : ReadAfterWrite stalled := by
  intro j hj
  have : j < 4 := hj
  interval_cases j <;> decide

/-- The whole invariant holds in a state with a stall, an occupied latch of each kind and an instruction in flight. -/
theorem stalled_inv : Inv stalled where
  shaped := stalled_shaped
  ordered := stalled_ordered
  timed := stalled_timed
  registers := stalled_registers
  mapped := by decide
  sources := by decide
  dependences := stalled_dependences

theorem finished_dependences : ReadAfterWrite finished := by
  intro j hj
  obtain rfl : j = 0 := Nat.lt_one_iff.1 hj
  decide

/-- The whole invariant holds in a done state with a record. -/
theorem finished_inv : Inv finished where
  shaped := by constructor <;> decide
  ordered := by constructor <;> decide
  timed := by constructor <;> decide
  registers := by constructor <;> decide
  mapped := by decide
  sources := by decide
  dependences := finished_dependences

/-! ### Witnesses: encoding -/

theorem witness_DecodeUndoesEncode :
    (Instr.immOp 0 31 127).wellFormed = true ∧ (Instr.immOp 0 31 127).encodable = true ∧
    (Instr.store 31 (-128) 0).wellFormed = true ∧ (Instr.store 31 (-128) 0).encodable = true := by decide

theorem witness_EncodeUndoesDecode : decodeWord 0x4C1F8000 = .record (.load 31 (-128) 0) := by decide

theorem witness_UnknownKindIsDropped :
    kindField 0x00010203 ≠ 0x52 ∧ kindField 0x00010203 ≠ 0x49 ∧ kindField 0x00010203 ≠ 0x4C ∧
    kindField 0x00010203 ≠ 0x53 := by decide

/-- A word of each kind with every register field at 31, and the highest or lowest immediate. -/
theorem witness_RegisterFieldsAreBelow32_records :
    kindField 0x521F1F1F = 0x52 ∧ decodeWord 0x521F1F1F = .record (.regOp 31 31 31) ∧
    kindField 0x491F1FFF = 0x49 ∧ decodeWord 0x491F1FFF = .record (.immOp 31 31 (-1)) ∧
    kindField 0x4C1F801F = 0x4C ∧ decodeWord 0x4C1F801F = .record (.load 31 (-128) 31) ∧
    kindField 0x531F7F1F = 0x53 ∧ decodeWord 0x531F7F1F = .record (.store 31 127 31) := by decide

/-- A word of each kind with one register field at 32, just past the bound: in `op1`, `op2`, `op3` and `op3`. -/
theorem witness_RegisterFieldsAreBelow32_refused :
    (kindField 0x52200000 = 0x52 ∧ (0x52200000 : Word).extractLsb' 21 3 ≠ 0) ∧
    (kindField 0x49012005 = 0x49 ∧ (0x49012005 : Word).extractLsb' 13 3 ≠ 0) ∧
    (kindField 0x4C01FF20 = 0x4C ∧ (0x4C01FF20 : Word).extractLsb' 5 3 ≠ 0) ∧
    kindField 0x53017F20 = 0x53 ∧ (0x53017F20 : Word).extractLsb' 5 3 ≠ 0 := by decide

/-! ### Witnesses: reset and the boundary -/

theorem witness_ResetGivesTheResetState : Config.legal ⟨1, 33, [.regOp 31 0 31]⟩ = true := by decide

theorem witness_IllegalConfigurationsHaveNoRun_widths :
    (⟨0, 33, []⟩ : Config).issueWidth = 0 ∧ (⟨1, 32, []⟩ : Config).physRegCount ≤ 32 := by decide

theorem witness_IllegalConfigurationsHaveNoRun_trace :
    1 ≤ (⟨1, 33, [.load 0 0 32]⟩ : Config).issueWidth ∧ 32 < (⟨1, 33, [.load 0 0 32]⟩ : Config).physRegCount ∧
    ∃ i ∈ (⟨1, 33, [.load 0 0 32]⟩ : Config).trace, i.wellFormed = false := by decide

theorem witness_BoundaryErrorsStartNoRun :
    kindOfLetter 'X' = none ∧ ((0 : Int) ≤ 0 ∨ (1 : Int) ≤ 0) ∧ ((33 : Int) ≤ 0 ∨ (0 : Int) ≤ 0) ∧
    (0 : Int) < 1 ∧ (0 : Int) < 33 := by decide

theorem witness_DoneIsFinal :
    finished.config.legal = true ∧ finished.completedCount = finished.config.trace.length ∧
    State.reset.config.legal = true ∧ State.reset.completedCount = State.reset.config.trace.length := by decide

/-! ### Witnesses: one instruction at one stage -/

/-- The reset state of a trace of one record, with the record in the given slot of latch `F`. -/
def inLatchF (i : Instr) : State :=
  { withRecords [fetched 0 i [0]] with latchF := [some 0, none], currentCycle := 1, focus := ⟨.Dc, 0, 0⟩ }

theorem witness_FetchTakesTheRecord :
    (Instr.load 0 8 31).wellFormed = true ∧
    (State.init { issueWidth := 1, physRegCount := 33, trace := [.load 0 8 31] }).focus.stage = .F := by decide

theorem witness_DecodeMovesTheSlot :
    (Instr.store 1 0 2).wellFormed = true ∧ (inLatchF (.store 1 0 2)).focus.stage = .Dc ∧
    (inLatchF (.store 1 0 2)).recs[0]? = some (fetched 0 (.store 1 0 2) [0]) := by decide

/-- With a register free, with none free, and with destination 0. -/
theorem witness_RegOpRenames :
    (pendingIn (.regOp 31 0 31)).focus.stage = .R ∧ (pendingIn (.regOp 31 0 31)).free = [32, 33] ∧
    (pendingIn (.regOp 31 0 31)).recs[0]? = some (fetched 0 (.regOp 31 0 31) [0, 1]) ∧
    (afterRN2 (pendingIn (.regOp 0 0 31))).focus.stage = .R ∧ (afterRN2 (pendingIn (.regOp 0 0 31))).free = [] ∧
    (afterRN2 (pendingIn (.regOp 0 0 31))).recs[0]? = some (fetched 0 (.regOp 0 0 31) [0, 1]) := by decide

theorem witness_ImmOpRenames :
    (pendingIn (.immOp 31 0 300)).focus.stage = .R ∧
    (pendingIn (.immOp 31 0 300)).recs[0]? = some (fetched 0 (.immOp 31 0 300) [0, 1]) ∧
    (afterRN2 (pendingIn (.immOp 0 31 (-1)))).focus.stage = .R ∧ (afterRN2 (pendingIn (.immOp 0 31 (-1)))).free = [] ∧
    (afterRN2 (pendingIn (.immOp 0 31 (-1)))).recs[0]? = some (fetched 0 (.immOp 0 31 (-1)) [0, 1]) := by decide

theorem witness_LoadRenames :
    (pendingIn (.load 31 300 0)).focus.stage = .R ∧
    (pendingIn (.load 31 300 0)).recs[0]? = some (fetched 0 (.load 31 300 0) [0, 1]) ∧
    (afterRN2 (pendingIn (.load 0 (-1) 31))).focus.stage = .R ∧ (afterRN2 (pendingIn (.load 0 (-1) 31))).free = [] ∧
    (afterRN2 (pendingIn (.load 0 (-1) 31))).recs[0]? = some (fetched 0 (.load 0 (-1) 31) [0, 1]) := by decide

theorem witness_StoreRenames :
    (afterRN2 (pendingIn (.store 31 300 0))).focus.stage = .R ∧
    (afterRN2 (pendingIn (.store 31 300 0))).recs[0]? = some (fetched 0 (.store 31 300 0) [0, 1]) := by decide

/-- A register and an immediate source, and a store. -/
theorem witness_DispatchMakesTheEntries :
    (Instr.immOp 1 2 7).wellFormed = true ∧ (renamedIn (.immOp 1 2 7) (.reg 32) (.imm 7) 33).focus.stage = .Di ∧
    (renamedIn (.immOp 1 2 7) (.reg 32) (.imm 7) 33).recs[0]? =
      some (renamedTo 0 (.immOp 1 2 7) (.reg 32) (.imm 7) 33 [0, 1, 2]) ∧
    (renamedTo 0 (.immOp 1 2 7) (.reg 32) (.imm 7) 33 [0, 1, 2]).physSrc1 = some (.reg 32) ∧
    (renamedTo 0 (.immOp 1 2 7) (.reg 32) (.imm 7) 33 [0, 1, 2]).physSrc2 = some (.imm 7) ∧
    (Instr.store 1 0 2).wellFormed = true ∧ (renamedIn (.store 1 0 2) (.imm 0) (.reg 32) 32).focus.stage = .Di ∧
    (renamedIn (.store 1 0 2) (.imm 0) (.reg 32) 32).recs[0]? =
      some (renamedTo 0 (.store 1 0 2) (.imm 0) (.reg 32) 32 [0, 1, 2]) := by decide

theorem witness_IssueSendsToWriteback :
    (issueStore.focusOn .IS 0 1).focus.stage = .IS ∧ (Instr.regOp 4 1 5).wellFormed = true ∧
    (issueStore.focusOn .IS 0 1).recs[1]? =
      some (renamedTo 1 (.regOp 4 1 5) (.reg 33) (.reg 32) 33 [0, 1, 2, 3]) ∧
    (renamedTo 1 (.regOp 4 1 5) (.reg 33) (.reg 32) 33 [0, 1, 2, 3]).physDst = some 33 := by decide

theorem witness_WritebackMarksReady :
    (writebackPair.focusOn .W 0 1).focus.stage = .W ∧ (Instr.store 1 0 2).wellFormed = true ∧
    (writebackPair.focusOn .W 0 1).recs[1]? =
      some (renamedTo 1 (.store 1 0 2) (.imm 0) (.reg 2) 33 [0, 1, 2, 3, 4]) ∧
    (renamedTo 1 (.store 1 0 2) (.imm 0) (.reg 2) 33 [0, 1, 2, 3, 4]).physDst = some 33 := by decide

theorem witness_CommitFreesTheOwnRegister :
    (commitThree.focusOn .C 0 1).focus.stage = .C ∧ (Instr.load 2 8 3).wellFormed = true ∧
    (commitThree.focusOn .C 0 1).recs[1]? =
      some (renamedTo 1 (.load 2 8 3) (.imm 8) (.reg 3) 33 [0, 1, 2, 3, 4, 5]) ∧
    (renamedTo 1 (.load 2 8 3) (.imm 8) (.reg 3) 33 [0, 1, 2, 3, 4, 5]).physDst = some 33 := by decide

theorem witness_OnlyIllFormedRecordsStop :
    (Instr.regOp 0 31 32).wellFormed = false ∧ (Instr.regOp 0 31 31).wellFormed = true := by decide

/-! ### Witnesses: one stage -/

theorem witness_CommitRetiresTheReadyPrefix : ∃ t, commitStage commitThree = .next t := ⟨_, rfl⟩

theorem witness_WritebackEmptiesTheQueue :
    writebackPair.wbq.length ≤ writebackPair.config.issueWidth ∧ ∃ t, writebackStage writebackPair = .next t :=
  ⟨by decide, _, rfl⟩

theorem witness_IssueSelectsTheOldestEligible :
    (issueStore.iq.map IQEntry.age).Nodup ∧ ∃ t, issueStage issueStore = .next t := ⟨by decide, _, rfl⟩

theorem witness_WakeupRaisesMatchingFlags : ∃ t, issueStage issueStore = .next t := ⟨_, rfl⟩

theorem witness_DispatchTakesEveryRenamedSlot :
    ∃ t, dispatchStage (renamedIn (.regOp 1 2 3) (.reg 32) (.reg 33) 33) = .next t := ⟨_, rfl⟩

/-- An empty latch `R` takes a group of two; an occupied one keeps its stalled slot. -/
theorem witness_RenameFencesAtTheFirstStall :
    ((occupied fencedGroup.takeGroup.latchR).Nodup ∧
      fencedGroup.takeGroup.latchR.length = fencedGroup.config.issueWidth ∧
      (∀ h ∈ occupied fencedGroup.takeGroup.latchR, fencedGroup.renamed h = false) ∧
      latchEmpty fencedGroup.latchR = true ∧ ∃ t, renameStage fencedGroup = .next t) ∧
    (occupied stalled.takeGroup.latchR).Nodup ∧ stalled.takeGroup.latchR.length = stalled.config.issueWidth ∧
      (∀ h ∈ occupied stalled.takeGroup.latchR, stalled.renamed h = false) ∧
      latchEmpty stalled.latchR = false ∧ ∃ t, renameStage stalled = .next t :=
  ⟨⟨by decide, by decide, by decide, by decide, _, rfl⟩, by decide, by decide, by decide, by decide, _, rfl⟩

theorem witness_DecodeMovesTheGroup :
    latchEmpty (inLatchF (.store 1 0 2)).latchDc = true ∧
    (inLatchF (.store 1 0 2)).latchF.length = (inLatchF (.store 1 0 2)).config.issueWidth ∧
    (inLatchF (.store 1 0 2)).latchDc.length = (inLatchF (.store 1 0 2)).config.issueWidth ∧
    ∃ t, decodeStage (inLatchF (.store 1 0 2)) = .next t := ⟨by decide, by decide, by decide, _, rfl⟩

/-- A group that the trace cannot fill. -/
theorem witness_FetchFillsTheGroup :
    latchEmpty (State.init ⟨2, 33, [.store 1 0 2]⟩).latchF = true ∧
    (State.init ⟨2, 33, [.store 1 0 2]⟩).latchF.length = 2 ∧
    (State.init ⟨2, 33, [.store 1 0 2]⟩).recs.length = (State.init ⟨2, 33, [.store 1 0 2]⟩).config.trace.length ∧
    ∃ t, fetchStage (State.init ⟨2, 33, [.store 1 0 2]⟩) = .next t := ⟨by decide, by decide, by decide, _, rfl⟩

theorem witness_TablesHaveTheirWriters :
    (∃ t, commitStage commitThree = .next t) ∧ (∃ t, writebackStage writebackPair = .next t) ∧
    (∃ t, issueStage issueStore = .next t) ∧ (∃ t, dispatchStage commitThree = .next t) ∧
    (∃ t, decodeStage (inLatchF (.store 1 0 2)) = .next t) ∧ ∃ t, fetchStage commitThree = .next t :=
  ⟨⟨_, rfl⟩, ⟨_, rfl⟩, ⟨_, rfl⟩, ⟨_, rfl⟩, ⟨_, rfl⟩, _, rfl⟩

/-! ### Witnesses: one step -/

/-- A ready head, a writeback queue, a renamed slot, a pending slot and an occupied slot of `F`, each with its record. -/
theorem witness_StagesRunTheDecodedInstruction :
    (commitThree.recs[0]? = some (renamedTo 0 (.regOp 1 2 3) (.reg 2) (.reg 3) 32 [0, 1, 2, 3, 4, 5]) ∧
      commitThree.rob.head? = some ⟨0, true, false⟩) ∧
    (writebackPair.recs[0]? = some (renamedTo 0 (.regOp 1 2 3) (.reg 2) (.reg 3) 32 [0, 1, 2, 3, 4]) ∧
      writebackPair.wbq = [0, 1]) ∧
    (slotAt (renamedIn (.store 1 0 2) (.imm 0) (.reg 32) 32).latchR 0 = some 0 ∧
      (renamedTo 0 (.store 1 0 2) (.imm 0) (.reg 32) 32 [0, 1, 2]).cycle.R.isSome = true) ∧
    (slotAt (pendingIn (.store 1 0 2)).latchR 0 = some 0 ∧ (fetched 0 (.store 1 0 2) [0, 1]).cycle.R = none) ∧
    slotAt (inLatchF (.store 1 0 2)).latchF 0 = some 0 ∧
    (inLatchF (.store 1 0 2)).recs[0]? = some (fetched 0 (.store 1 0 2) [0]) := by decide

/-- The first step of a trace of one record, and the first step after reset with a word placed. -/
theorem witness_StepRunsTheFetchedInstruction :
    (configRefusal (State.init ⟨1, 33, [.store 1 0 2]⟩).config = none ∧
      (State.init ⟨1, 33, [.store 1 0 2]⟩).done = false ∧
      ∃ b, beforeFetch (State.init ⟨1, 33, [.store 1 0 2]⟩) = .next b ∧ latchEmpty b.latchF = true ∧
        (State.init ⟨1, 33, [.store 1 0 2]⟩).config.trace[b.fetchOffset]? = some (.store 1 0 2)) ∧
    decodeTableWord 32 0x53010002 = some (.store 1 0 2) ∧
    State.reset.fetchOffset ≤ State.reset.config.trace.length ∧
    configRefusal (State.reset.withFetchWord 32 0x53010002).config = none ∧
    (State.reset.withFetchWord 32 0x53010002).done = false ∧
    ∃ b, beforeFetch (State.reset.withFetchWord 32 0x53010002) = .next b :=
  ⟨⟨by decide, by decide, _, rfl, by decide, by decide⟩, by decide, by decide, by decide, by decide, _, rfl⟩

theorem witness_StampsAreTheCycleNumber :
    (stalled.done = false ∧ ∃ t, step stalled = .next t ∧ t.stampOf .W 0 = some 5) ∧
    ∃ t, step (State.init ⟨1, 33, fourProducers⟩) = .next t ∧
      0 < (⟨1, 33, fourProducers⟩ : Config).issueWidth ∧ 0 < (⟨1, 33, fourProducers⟩ : Config).trace.length :=
  ⟨⟨by decide, _, rfl, by decide⟩, _, rfl, by decide, by decide⟩

theorem witness_ConfigurationIsImmutable :
    stalled.recs.map Record.instr = stalled.config.trace ∧ ∃ t, step stalled = .next t := ⟨by decide, _, rfl⟩

/-- The stall of instruction 1 outlasts the tick, with a group held in `Dc` and one in `F`. -/
theorem witness_StallHoldsTheFrontEnd :
    Shaped stalled ∧ Ordered stalled ∧
    ∃ t, step stalled = .next t ∧ slotAt stalled.latchR 0 = some 1 ∧ slotAt t.latchR 0 = some 1 ∧
      latchEmpty stalled.latchDc = false ∧ latchEmpty stalled.latchF = false :=
  ⟨stalled_shaped, stalled_ordered, _, rfl, by decide, by decide, by decide, by decide⟩

theorem witness_HangRepeatsForEver :
    step hung = .next { hung with currentCycle := hung.currentCycle + 1 } := rfl

theorem witness_LoneInstructionTakesSevenTicks : (Instr.regOp 0 31 31).wellFormed = true ∧ 1 ≤ 1 ∧ 32 < 33 := by decide

/-! ### Witnesses: invariants -/

theorem witness_ResetSatisfiesTheInvariant : Config.legal ⟨1, 33, [.regOp 31 0 31]⟩ = true := by decide

theorem witness_StepKeepsTheShape : Shaped stalled ∧ ∃ t, step stalled = .next t := ⟨stalled_shaped, _, rfl⟩

theorem witness_OrderedStatesNeverStop : Shaped stalled ∧ Ordered stalled := ⟨stalled_shaped, stalled_ordered⟩

theorem witness_StepKeepsTheOrder : Shaped stalled ∧ Ordered stalled ∧ ∃ t, step stalled = .next t :=
  ⟨stalled_shaped, stalled_ordered, _, rfl⟩

theorem witness_StepKeepsTheStamps :
    Shaped stalled ∧ Ordered stalled ∧ Timed stalled ∧ ∃ t, step stalled = .next t :=
  ⟨stalled_shaped, stalled_ordered, stalled_timed, _, rfl⟩

theorem witness_StepKeepsTheRegisters :
    Shaped stalled ∧ Ordered stalled ∧ RegistersSound stalled ∧ ∃ t, step stalled = .next t :=
  ⟨stalled_shaped, stalled_ordered, stalled_registers, _, rfl⟩

theorem witness_StepKeepsTheMapping :
    Shaped stalled ∧ Ordered stalled ∧ RegistersSound stalled ∧ MapSound stalled ∧ ∃ t, step stalled = .next t :=
  ⟨stalled_shaped, stalled_ordered, stalled_registers, stalled_inv.mapped, _, rfl⟩

theorem witness_StepKeepsTheSources :
    Shaped stalled ∧ Ordered stalled ∧ RegistersSound stalled ∧ MapSound stalled ∧ SourcesRenamed stalled ∧
    ∃ t, step stalled = .next t :=
  ⟨stalled_shaped, stalled_ordered, stalled_registers, stalled_inv.mapped, stalled_inv.sources, _, rfl⟩

theorem witness_StepKeepsReadAfterWrite : Inv stalled ∧ ∃ t, step stalled = .next t := ⟨stalled_inv, _, rfl⟩

theorem witness_InvariantHoldsForEver : Inv stalled := stalled_inv

theorem witness_ZeroRegisterIsImmutable :
    (Inv stalled ∧ ∃ t, Host.Core.run core 1 stalled = .next t) ∧
    (∃ t, exec (.load 2 8 3) (commitThree.focusOn .C 0 1) = .next t) ∧
    0 ∉ (commitThree.focusOn .C 0 1).free ∧ (commitThree.focusOn .C 0 1).physDstOf 1 ≠ some 0 :=
  ⟨⟨stalled_inv, _, rfl⟩, ⟨_, rfl⟩, by decide, by decide⟩

theorem witness_AtMostWPerStageAndTick : Inv stalled ∧ ∃ t, Host.Core.run core 1 stalled = .next t :=
  ⟨stalled_inv, _, rfl⟩

theorem witness_NothingCommitsBeforeTickSix :
    Inv finished ∧ finished.done = true ∧ 1 ≤ finished.count ∧ finished.stampOf .C 0 = some 6 :=
  ⟨finished_inv, by decide, by decide, by decide⟩

theorem witness_StampsAreWrittenOnce : Inv stalled ∧ (∃ t, step stalled = .next t) ∧ stalled.passed .R 0 :=
  ⟨stalled_inv, ⟨_, rfl⟩, by decide⟩

theorem witness_DoneStateIsClean : Inv finished ∧ finished.done = true := ⟨finished_inv, by decide⟩

/-- As many producing instructions as registers. -/
theorem witness_FewProducersTerminate :
    Config.legal ⟨1, 36, fourProducers⟩ = true ∧ fourProducers.countP Instr.produces ≤ 36 - 32 := by decide

/-- More producing instructions than registers, and no dependence. -/
theorem witness_IndependentTracesTerminate :
    Config.legal ⟨1, 33, fourProducers⟩ = true ∧
    ∀ i ∈ fourProducers, ∀ pos, ∀ a ∈ i.sourceReg pos, ∀ j ∈ fourProducers, j.produces = true → j.op1 ≠ (a : Int) := by
  decide

/-- Vector V-D: the row of the finished store. -/
theorem test_report : finished.report = some [(0, [0, 1, 2, 3, 4, 5, 6])] := by decide

theorem witness_ReportHasEveryRow : Inv stalled ∧ stalled.done = false ∧ Inv finished ∧ finished.done = true :=
  ⟨stalled_inv, by decide, finished_inv, by decide⟩

end Sys2Proof.Tests
end

/-! # The cycle number and the stamps of a tick (40_tick_protocol.md R102)

Every stage stamps with the cycle number and none changes it (`OneCycle`), so a tick is a run within one cycle followed
by `finish`. From reset, the six stages before Fetch find nothing to do, and Fetch stamps its group with 0. -/

namespace Sys2Proof.Machine

open Sys2Proof

/-! ### Reading a stamp after an update -/

@[simp] theorem Stamps.get_unset (st : Stage) : Stamps.unset.get st = none := by
  cases st <;> rfl

/-- A stamp found after one stamping was there before it, or is the number stamped. -/
theorem Stamps.get_put_eq_some {c : Stamps} {st st' : Stage} {n v : Nat} (h : (c.put st n).get st' = some v) :
    c.get st' = some v ∨ v = n := by
  by_cases hst : st' = st
  · subst hst
    rw [Stamps.get_put, Option.some.injEq] at h
    exact .inr h.symm
  · exact .inl (Stamps.get_put_of_ne c n hst ▸ h)

theorem State.fetchOne_recs (i : Instr) (s : State) :
    (s.fetchOne i).recs = s.recs.set s.fetchOffset
      { Record.fresh i with fetchIndex := some s.fetchOffset, cycle := Stamps.unset.put .F s.currentCycle } := rfl

theorem State.stampOf_fetchOne_of_ne (i : Instr) {s : State} (st : Stage) {j : Nat} (h : j ≠ s.fetchOffset) :
    (s.fetchOne i).stampOf st j = s.stampOf st j := by
  rw [State.stampOf, State.fetchOne_recs, List.getElem?_set_ne h.symm, State.stampOf]

theorem State.stampOf_fetchOne_self (i : Instr) {s : State} (st : Stage) (h : s.fetchOffset < s.recs.length) :
    (s.fetchOne i).stampOf st s.fetchOffset = (Stamps.unset.put .F s.currentCycle).get st := by
  rw [State.stampOf, State.fetchOne_recs, List.getElem?_set_self h, Option.bind_some]

@[simp] theorem State.stampOf_finish (s : State) (st : Stage) (j : Nat) : s.finish.stampOf st j = s.stampOf st j := rfl

/-! ### Within one cycle -/

/-- `t` is reached from `s` within one tick: the cycle number stands, and every stamp of `t` is a stamp of `s` or that
number. -/
structure OneCycle (s t : State) : Prop where
  cycle : t.currentCycle = s.currentCycle
  stamps : ∀ {st j v}, t.stampOf st j = some v → s.stampOf st j = some v ∨ v = s.currentCycle

theorem OneCycle.of_recs_eq {s t : State} (hc : t.currentCycle = s.currentCycle) (hr : t.recs = s.recs) :
    OneCycle s t where
  cycle := hc
  stamps h := .inl (by rwa [State.stampOf, hr] at h)

theorem OneCycle.refl (s : State) : OneCycle s s := .of_recs_eq rfl rfl

theorem OneCycle.trans {s t u : State} (hst : OneCycle s t) (htu : OneCycle t u) : OneCycle s u where
  cycle := htu.cycle.trans hst.cycle
  stamps h := (htu.stamps h).elim hst.stamps fun hv => .inr (hv.trans hst.cycle)

/-- An update of one record that puts the cycle number on one of its stamps. -/
theorem OneCycle.of_recs_modify {s t : State} {h : Nat} {f : Record → Record} (x : Stage)
    (hc : t.currentCycle = s.currentCycle) (hr : t.recs = s.recs.modify h f)
    (hf : ∀ r, (f r).cycle = r.cycle.put x s.currentCycle) : OneCycle s t where
  cycle := hc
  stamps {st j v} hv := by
    rw [State.stampOf, hr, List.getElem?_modify] at hv
    rw [State.stampOf]
    cases hj : s.recs[j]? with
    | none => simp [hj] at hv
    | some r =>
      by_cases hh : h = j
      · simp only [hj, hh, if_true, Option.map_eq_map, Option.map_some, Option.bind_some, hf] at hv
        exact Stamps.get_put_eq_some hv
      · simp only [hj, hh, if_false, id_map'] at hv
        exact .inl hv

theorem oneCycle_focusOn (st : Stage) (k h : Nat) (s : State) : OneCycle s (s.focusOn st k h) := .of_recs_eq rfl rfl

theorem oneCycle_clearWires (s : State) : OneCycle s s.clearWires := .of_recs_eq rfl rfl

theorem oneCycle_wakeup (s : State) : OneCycle s s.wakeup := .of_recs_eq rfl rfl

theorem oneCycle_clearDi (s : State) : OneCycle s s.clearDi := .of_recs_eq rfl rfl

theorem oneCycle_takeGroup (s : State) : OneCycle s s.takeGroup :=
  .of_recs_eq s.takeGroup_currentCycle s.takeGroup_recs

/-- Fetch of one record: the stamps of a record written anew are the cycle number or unset. -/
theorem oneCycle_fetchOne (i : Instr) (s : State) : OneCycle s (s.fetchOne i) where
  cycle := rfl
  stamps {st j v} hv := by
    by_cases hj : j = s.fetchOffset
    · subst hj
      by_cases hlt : s.fetchOffset < s.recs.length
      · rw [State.stampOf_fetchOne_self i st hlt] at hv
        exact (Stamps.get_put_eq_some hv).elim (fun h => by simp at h) .inr
      · rw [State.stampOf, State.fetchOne_recs, List.set_eq_of_length_le (Nat.le_of_not_lt hlt)] at hv
        exact .inl hv
    · exact .inl (State.stampOf_fetchOne_of_ne i st hj ▸ hv)

/-- Rename of one slot: a stall writes nothing, and every completion stamps the same way. -/
theorem oneCycle_renameOne (x y : Operand) (d : Dest) (s : State) : OneCycle s (s.renameOne x y d) := by
  have completes : ∀ {t : State} {p : Nat}, t.currentCycle = s.currentCycle → t.recs = s.completeRename x y p →
      OneCycle s t := fun hc hr => .of_recs_modify .R hc hr fun _ => rfl
  obtain ⟨-, -, h⟩ | ⟨_, _, _, -, -, h⟩ | ⟨-, h⟩ | ⟨_, -, h⟩ := renameOne_cases x y d s
  · rw [h]; exact .refl s
  · exact h ▸ completes rfl rfl
  · exact h ▸ completes rfl rfl
  · exact h ▸ completes rfl rfl

/-- What any stage does with one instruction stays within the cycle. -/
theorem oneCycle_pass (i : Instr) (ro : Roles) (s : State) : OneCycle s (s.pass i ro) := by
  unfold State.pass
  split
  · exact oneCycle_fetchOne i s
  · exact .of_recs_modify .Dc rfl s.decodeOne_recs fun _ => rfl
  · exact oneCycle_renameOne ro.src1 ro.src2 ro.dst s
  · exact .of_recs_modify .Di rfl (State.dispatchOne_recs _ s) fun _ => rfl
  · exact .of_recs_modify .IS rfl (State.issueOne_recs _ s) fun _ => rfl
  · exact .of_recs_modify .W rfl (State.writebackOne_recs _ s) fun _ => rfl
  · exact .of_recs_modify .C rfl (State.commitOne_recs _ s) fun _ => rfl

theorem oneCycle_of_exec {i : Instr} {st : Stage} {k h : Nat} {s t : State}
    (ht : exec i (s.focusOn st k h) = .next t) : OneCycle s t := by
  obtain ⟨-, rfl⟩ := exec_eq_next.1 ht
  exact (oneCycle_focusOn st k h s).trans (oneCycle_pass _ _ _)

theorem oneCycle_of_runAt {st : Stage} {k h : Nat} {s t : State} (ht : runAt st k h s = .next t) : OneCycle s t := by
  obtain ⟨r, -, -, rfl⟩ := runAt_eq_next.1 ht
  exact (oneCycle_focusOn st k h s).trans (oneCycle_pass _ _ _)

/-! ### Each stage stays within the cycle -/

theorem oneCycle_commitStage {s t : State} (h : commitStage s = .next t) : OneCycle s t :=
  commitWalk_keeps (P := OneCycle s) (fun _ _ _ _ hu _ _ hr => hu.trans (oneCycle_of_runAt hr)) _ _ _ (.refl s) h

theorem oneCycle_writebackStage {s t : State} (h : writebackStage s = .next t) : OneCycle s t :=
  writebackDrain_keeps (P := OneCycle s) (fun _ _ _ _ hu _ hr => hu.trans (oneCycle_of_runAt hr)) _ _ _ (.refl s) h

theorem oneCycle_issueStage {s t : State} (h : issueStage s = .next t) : OneCycle s t := by
  obtain ⟨u, hu, h⟩ := andThen_eq_next.1 h
  have issued : OneCycle s u := issueEach_keeps (P := fun _ => OneCycle s)
    (fun _ _ _ _ hu hr => hu.trans (oneCycle_of_runAt hr)) _ _ _ (.refl s) hu
  exact next_inj.1 h ▸ issued.trans (oneCycle_wakeup u)

theorem oneCycle_dispatchStage {s t : State} (h : dispatchStage s = .next t) : OneCycle s t :=
  dispatchSlots_keeps (P := fun _ => OneCycle s) (fun _ _ hu _ => hu)
    (fun _ _ _ _ hu _ _ hr => hu.trans (oneCycle_of_runAt hr)) _ _ _ _ (oneCycle_clearDi s) h

theorem oneCycle_renameStage {s t : State} (h : renameStage s = .next t) : OneCycle s t :=
  (renameSlots_keeps (P := fun _ => OneCycle s) (Q := OneCycle s) (fun _ _ hu _ => hu)
    (fun _ _ _ _ hu _ _ hr _ => hu.trans (oneCycle_of_runAt hr))
    (fun _ _ _ _ hu _ _ hr _ => hu.trans (oneCycle_of_runAt hr)) _ _ _ _
    (oneCycle_takeGroup s) h).elim id id

theorem oneCycle_decodeStage {s t : State} (h : decodeStage s = .next t) : OneCycle s t := by
  unfold decodeStage at h
  split at h
  · exact decodeSlots_keeps (P := fun _ => OneCycle s) (fun _ _ hu _ => hu)
      (fun _ _ _ _ hu _ hr => hu.trans (oneCycle_of_runAt hr)) _ _ _ _ (.refl s) h
  · exact next_inj.1 h ▸ .refl s

theorem oneCycle_fetchStage {s t : State} (h : fetchStage s = .next t) : OneCycle s t := by
  unfold fetchStage at h
  split at h
  · exact (fetchSlots_keeps (P := fun _ => OneCycle s) (Q := OneCycle s)
      (fun _ _ _ _ hu _ hr => hu.trans (oneCycle_of_exec hr)) (fun _ _ hu _ => hu) _ _ _ _ (.refl s) h).elim id id
  · exact next_inj.1 h ▸ .refl s

/-- A tick stays within its cycle up to its end, where the cycle number goes up. -/
theorem tick_eq_finish_of_oneCycle {s t : State} (h : tick s = .next t) : ∃ u, OneCycle s u ∧ t = u.finish := by
  obtain ⟨s₁, s₂, s₃, s₄, s₅, s₆, s₇, hC, hW, hIS, hDi, hR, hDc, hF, rfl⟩ := tick_eq_next h
  have beforeIssue : OneCycle s s₂ :=
    (oneCycle_clearWires s).trans <| (oneCycle_commitStage hC).trans (oneCycle_writebackStage hW)
  have beforeRename : OneCycle s₂ s₄ := (oneCycle_issueStage hIS).trans (oneCycle_dispatchStage hDi)
  have toTheEnd : OneCycle s₄ s₇ :=
    (oneCycle_renameStage hR).trans <| (oneCycle_decodeStage hDc).trans (oneCycle_fetchStage hF)
  exact ⟨s₇, beforeIssue.trans (beforeRename.trans toTheEnd), rfl⟩

/-- A step counts its tick. -/
theorem step_currentCycle {s t : State} (hd : s.done = false) (h : step s = .next t) :
    t.currentCycle = s.currentCycle + 1 := by
  obtain ⟨-, ⟨hd', -⟩ | ⟨-, h⟩⟩ := advance_eq_next h
  · rw [hd] at hd'; cases hd'
  · obtain ⟨u, hu, rfl⟩ := tick_eq_finish_of_oneCycle h
    rw [State.finish_currentCycle, hu.cycle]

/-- A stamp found after a step was there before it or is the cycle number of its tick. -/
theorem step_stampOf {s t : State} {st : Stage} {j v : Nat} (h : step s = .next t) (hv : t.stampOf st j = some v) :
    s.stampOf st j = some v ∨ v = s.currentCycle := by
  obtain ⟨-, ⟨-, rfl⟩ | ⟨-, h⟩⟩ := advance_eq_next h
  · exact .inl hv
  · obtain ⟨u, hu, rfl⟩ := tick_eq_finish_of_oneCycle h
    exact hu.stamps hv

/-! ### A stage with nothing to handle -/

@[simp] theorem slotAt_emptyLatch (w k : Nat) : slotAt (emptyLatch w) k = none := by
  rw [slotAt, emptyLatch, List.getElem?_replicate]
  split <;> rfl

@[simp] theorem latchEmpty_emptyLatch (w : Nat) : latchEmpty (emptyLatch w) = true := by
  simp [latchEmpty, emptyLatch]

theorem commitStage_of_rob_nil {s : State} (h : s.rob = []) : commitStage s = .next s := by
  unfold commitStage
  cases s.config.issueWidth with
  | zero => rfl
  | succ n => rw [commitWalk, h]

theorem writebackStage_of_wbq_nil {s : State} (h : s.wbq = []) : writebackStage s = .next s := by
  unfold writebackStage
  cases s.config.issueWidth with
  | zero => rfl
  | succ n => rw [writebackDrain, h]

theorem issueStage_of_iq_nil {s : State} (h : s.iq = []) : issueStage s = .next s := by
  have noneSelected : s.selected = [] := by simp [State.selected, byAge, h]
  have noneWoken : s.wakeup = s := by rw [State.wakeup, h, List.map_nil, ← h]
  rw [issueStage, noneSelected, issueEach, andThen_next, noneWoken]

theorem dispatchSlots_of_latchR_empty {s : State} (h : ∀ k, slotAt s.latchR k = none) (n k : Nat) :
    dispatchSlots n k s = .next s := by
  induction n generalizing k with
  | zero => rfl
  | succ n ih => rw [dispatchSlots, h]; exact ih (k + 1)

theorem renameSlots_of_latchR_empty {s : State} (h : ∀ k, slotAt s.latchR k = none) (n k : Nat) :
    renameSlots n k s = .next s := by
  induction n generalizing k with
  | zero => rfl
  | succ n ih => rw [renameSlots, h]; exact ih (k + 1)

theorem decodeSlots_of_latchF_empty {s : State} (h : ∀ k, slotAt s.latchF k = none) (n k : Nat) :
    decodeSlots n k s = .next s := by
  induction n generalizing k with
  | zero => rfl
  | succ n ih => rw [decodeSlots, h]; exact ih (k + 1)

/-! ### The first tick -/

theorem clearWires_init (c : Config) : (State.init c).clearWires = State.init c := by
  unfold State.clearWires; rfl

theorem clearDi_init (c : Config) : (State.init c).clearDi = State.init c := by
  unfold State.clearDi; rfl

theorem takeGroup_init (c : Config) : (State.init c).takeGroup = State.init c := by
  unfold State.takeGroup; split <;> rfl

/-- Right after reset the stages before Fetch find nothing to handle. -/
theorem beforeFetch_init (c : Config) : beforeFetch (State.init c) = .next (State.init c) := by
  have dispatched : dispatchStage (State.init c) = .next (State.init c) := by
    rw [dispatchStage, clearDi_init]
    exact dispatchSlots_of_latchR_empty (slotAt_emptyLatch _) _ _
  have renamed : renameStage (State.init c) = .next (State.init c) := by
    rw [renameStage, takeGroup_init]
    exact renameSlots_of_latchR_empty (slotAt_emptyLatch _) _ _
  have decoded : decodeStage (State.init c) = .next (State.init c) := by
    rw [decodeStage, decodeSlots_of_latchF_empty (slotAt_emptyLatch _), ite_self]
  rw [beforeFetch, clearWires_init, commitStage_of_rob_nil rfl, andThen_next, writebackStage_of_wbq_nil rfl,
    andThen_next, issueStage_of_iq_nil rfl, andThen_next, dispatched, andThen_next, renamed, andThen_next, decoded]

/-- `k` records of the trace of `c` are fetched and the cycle number is still 0, as is their stamp at Fetch. -/
structure FirstGroupFetched (c : Config) (k : Nat) (s : State) : Prop where
  config : s.config = c
  cycle : s.currentCycle = 0
  offset : s.fetchOffset = k
  count : s.recs.length = c.trace.length
  stamped : ∀ j < k, s.stampOf .F j = some 0

theorem firstGroupFetched_init (c : Config) : FirstGroupFetched c 0 (State.init c) where
  config := rfl
  cycle := rfl
  offset := rfl
  count := List.length_map _
  stamped _ hj := absurd hj (Nat.not_lt_zero _)

/-- Fetching one more record stamps it 0 and leaves the stamps of those before it. -/
theorem FirstGroupFetched.fetchOne {c : Config} {k : Nat} {s : State} (hs : FirstGroupFetched c k s)
    (hk : k < c.trace.length) (i : Instr) : FirstGroupFetched c (k + 1) (s.fetchOne i) where
  config := hs.config
  cycle := hs.cycle
  offset := congrArg (· + 1) hs.offset
  count := by rw [State.fetchOne_recs, List.length_set, hs.count]
  stamped j hj := by
    by_cases hjk : j = s.fetchOffset
    · have inTable : s.fetchOffset < s.recs.length := by rw [hs.offset, hs.count]; exact hk
      rw [hjk, State.stampOf_fetchOne_self i .F inTable, Stamps.get_put, hs.cycle]
    · rw [State.stampOf_fetchOne_of_ne i .F hjk]
      have := hs.offset
      exact hs.stamped j (by omega)

/-- The first Fetch fetches a group of the issue width, or the whole trace. -/
theorem fetchStage_init {c : Config} {t : State} (h : fetchStage (State.init c) = .next t) :
    ∃ k, FirstGroupFetched c k t ∧ (c.issueWidth ≤ k ∨ c.trace.length ≤ k) := by
  have loop : fetchSlots c.issueWidth 0 (State.init c) = .next t := by
    rw [fetchStage] at h
    rwa [if_pos (show latchEmpty (State.init c).latchF = true from latchEmpty_emptyLatch _)] at h
  have take : ∀ k s i t, FirstGroupFetched c k s → s.config.trace[s.fetchOffset]? = some i →
      exec i (s.focusOn .F k s.fetchOffset) = .next t → FirstGroupFetched c (k + 1) t := by
    intro k s i t hs hi ht
    obtain ⟨-, rfl⟩ := exec_eq_next.1 ht
    have hk : k < c.trace.length := by
      rw [hs.config, hs.offset] at hi
      exact (List.getElem?_eq_some_iff.1 hi).1
    have focused : FirstGroupFetched c k (s.focusOn .F k s.fetchOffset) :=
      ⟨hs.config, hs.cycle, hs.offset, hs.count, hs.stamped⟩
    exact focused.fetchOne hk i
  have stop : ∀ k s, FirstGroupFetched c k s → s.config.trace[s.fetchOffset]? = none →
      ∃ k, FirstGroupFetched c k s ∧ c.trace.length ≤ k := by
    intro k s hs hend
    rw [hs.config, hs.offset] at hend
    exact ⟨k, hs, List.getElem?_eq_none_iff.1 hend⟩
  obtain full | ⟨k, hk, hend⟩ := fetchSlots_keeps take stop _ _ _ _ (firstGroupFetched_init c) loop
  · exact ⟨_, full, .inl (Nat.le_add_left _ _)⟩
  · exact ⟨k, hk, .inr hend⟩

/-- The first tick stamps the group it fetches with 0. -/
theorem step_init_stampOf_F {c : Config} {t : State} {j : Nat} (h : step (State.init c) = .next t)
    (hw : j < c.issueWidth) (hn : j < c.trace.length) : t.stampOf .F j = some 0 := by
  obtain ⟨-, ⟨hd, -⟩ | ⟨-, h⟩⟩ := advance_eq_next h
  · have : 0 = c.trace.length := by simpa [State.done, State.init] using hd
    omega
  · rw [tick, beforeFetch_init, andThen_next] at h
    obtain ⟨u, hu, h⟩ := andThen_eq_next.1 h
    obtain ⟨k, fetched, hk⟩ := fetchStage_init hu
    rw [← next_inj.1 h, State.stampOf_finish]
    exact fetched.stamped j (by omega)

/-- Settles O32: every stage stays within one cycle (`OneCycle`), and the first tick is its Fetch alone. -/
theorem stampsAreTheCycleNumber : Obligations.StampsAreTheCycleNumber :=
  ⟨fun _ => rfl, fun _ _ => step_currentCycle, fun _ _ _ _ _ => step_stampOf, fun _ _ _ => step_init_stampOf_F⟩

end Sys2Proof.Machine

/-! # Decode and Fetch of a group (42_fetch_decode.md R140, R143)

Latches are read slot by slot. Each stage's loop keeps a statement about the first `k` slots (`GroupDecoded`,
`GroupFetched`); with all slots of the group it is the obligation. -/

namespace Sys2Proof.Machine

open Sys2Proof

/-! ### Reading a latch slot by slot -/

theorem slotAt_eq_some {l : List (Option Nat)} {k h : Nat} : slotAt l k = some h ↔ l[k]? = some (some h) :=
  Option.join_eq_some_iff

theorem lt_length_of_slotAt {l : List (Option Nat)} {k h : Nat} (hk : slotAt l k = some h) : k < l.length :=
  (List.getElem?_eq_some_iff.1 (slotAt_eq_some.1 hk)).1

theorem slotAt_set (l : List (Option Nat)) (k : Nat) (x : Option Nat) {i : Nat} (hi : i < l.length) :
    slotAt (l.set k x) i = if i = k then x else slotAt l i := by
  rw [slotAt, slotAt, List.getElem?_set]
  by_cases hik : i = k
  · subst hik
    simp [hi]
  · simp [hik, Ne.symm hik]

/-- A latch is its slots. -/
theorem latch_ext {l m : List (Option Nat)} (hlen : l.length = m.length)
    (hslot : ∀ i < l.length, slotAt l i = slotAt m i) : l = m := by
  refine List.ext_getElem hlen fun i hl hm => ?_
  simpa [slotAt, hl, hm] using hslot i hl

theorem slotAt_of_latchEmpty {l : List (Option Nat)} (h : latchEmpty l = true) (k : Nat) : slotAt l k = none := by
  refine Option.eq_none_iff_forall_ne_some.2 fun x hx => ?_
  have empty := List.all_eq_true.1 h _ (List.mem_of_getElem? (slotAt_eq_some.1 hx))
  cases empty

theorem mem_occupied {l : List (Option Nat)} {h : Nat} : h ∈ occupied l ↔ ∃ k, slotAt l k = some h := by
  simp only [slotAt_eq_some]
  rw [occupied, List.reduceOption_mem_iff, List.mem_iff_getElem?]

@[simp] theorem length_emptyLatch (w : Nat) : (emptyLatch w).length = w := List.length_replicate

/-- The slots of a latch that holds consecutive handles on the left and nothing else. -/
theorem slotAt_range'_append_emptyLatch (a n m i : Nat) :
    slotAt ((List.range' a n).map some ++ emptyLatch m) i = if i < n then some (a + i) else none := by
  by_cases hi : i < n
  · simp [slotAt, List.getElem?_append, hi]
  · rw [if_neg hi, ← slotAt_emptyLatch m (i - n), slotAt, slotAt, List.getElem?_append_right (by simpa using hi)]
    simp

/-! ### What one stage writes on the records -/

theorem State.stampOf_of_getElem? {s : State} {j : Nat} {r : Record} (h : s.recs[j]? = some r) (st : Stage) :
    s.stampOf st j = r.cycle.get st := by
  rw [State.stampOf, h, Option.bind_some]

/-- The stamps after one record is stamped: that stamp of that record, and no other. -/
theorem State.stampOf_of_recs_stamp {s t : State} {x : Stage} {h c : Nat} {r : Record} (hr : s.recs[h]? = some r)
    (ht : t.recs = s.recs.modify h (Record.stamp x c)) (st : Stage) (j : Nat) :
    t.stampOf st j = if st = x ∧ j = h then some c else s.stampOf st j := by
  have hlt : h < s.recs.length := (List.getElem?_eq_some_iff.1 hr).1
  rw [modify_of_getElem? _ hr] at ht
  by_cases hj : j = h
  · subst hj
    have stamped : t.recs[j]? = some (r.stamp x c) := by rw [ht, List.getElem?_set_self hlt]
    rw [State.stampOf_of_getElem? stamped, State.stampOf_of_getElem? hr, Record.stamp]
    by_cases hst : st = x
    · subst hst
      simp
    · simp [hst, Stamps.get_put_of_ne]
  · rw [if_neg fun hc => hj hc.2, State.stampOf, ht, List.getElem?_set_ne (Ne.symm hj), State.stampOf]

/-- The record that Fetch writes for an instruction of the trace: index and stamp, and nothing else filled (R140). -/
def Record.fetchedAs (i : Instr) (j c : Nat) : Record :=
  { Record.fresh i with fetchIndex := some j, cycle := Stamps.unset.put .F c }

theorem State.getElem?_fetchOne_recs (i : Instr) (s : State) {j : Nat} (hj : s.fetchOffset < s.recs.length) :
    (s.fetchOne i).recs[j]? =
      if j = s.fetchOffset then some (Record.fetchedAs i j s.currentCycle) else s.recs[j]? := by
  rw [State.fetchOne_recs]
  by_cases h : j = s.fetchOffset
  · rw [if_pos h, h, List.getElem?_set_self hj, Record.fetchedAs]
  · rw [if_neg h, List.getElem?_set_ne (Ne.symm h)]

/-! ### The frame of Decode and Fetch -/

/-- `u` has the configuration, the cycle number, the tables, the queues and the latches `R` and `Di` of `s`: what
neither Decode nor Fetch writes. -/
structure FrontEndOnly (s u : State) : Prop where
  config : u.config = s.config
  cycle : u.currentCycle = s.currentCycle
  map : u.map = s.map
  rdy : u.rdy = s.rdy
  free : u.free = s.free
  iq : u.iq = s.iq
  rob : u.rob = s.rob
  wbq : u.wbq = s.wbq
  latchR : u.latchR = s.latchR
  latchDi : u.latchDi = s.latchDi

theorem FrontEndOnly.refl (s : State) : FrontEndOnly s s := ⟨rfl, rfl, rfl, rfl, rfl, rfl, rfl, rfl, rfl, rfl⟩

theorem FrontEndOnly.decodeOne {s u : State} (h : FrontEndOnly s u) (k x : Nat) :
    FrontEndOnly s (u.focusOn .Dc k x).decodeOne :=
  ⟨h.config, h.cycle, h.map, h.rdy, h.free, h.iq, h.rob, h.wbq, h.latchR, h.latchDi⟩

theorem FrontEndOnly.fetchOne {s u : State} (h : FrontEndOnly s u) (k x : Nat) (i : Instr) :
    FrontEndOnly s ((u.focusOn .F k x).fetchOne i) :=
  ⟨h.config, h.cycle, h.map, h.rdy, h.free, h.iq, h.rob, h.wbq, h.latchR, h.latchDi⟩

/-! ### Decode -/

/-- Decode of `s` has come to slot `k` in state `u`: the slots below `k` have moved from `F` to `Dc`, and their
instructions are stamped. -/
structure GroupDecoded (s : State) (k : Nat) (u : State) : Prop where
  frame : FrontEndOnly s u
  offset : u.fetchOffset = s.fetchOffset
  widthF : u.latchF.length = s.latchF.length
  widthDc : u.latchDc.length = s.latchF.length
  slotsF : ∀ i < s.latchF.length, slotAt u.latchF i = if i < k then none else slotAt s.latchF i
  slotsDc : ∀ i < s.latchF.length, slotAt u.latchDc i = if i < k then slotAt s.latchF i else none
  stamps : ∀ st j, u.stampOf st j =
    if st = .Dc ∧ ∃ i < k, slotAt s.latchF i = some j then some s.currentCycle else s.stampOf st j

theorem groupDecoded_start {s : State} (hDc : latchEmpty s.latchDc = true)
    (hlen : s.latchDc.length = s.latchF.length) : GroupDecoded s 0 s where
  frame := .refl s
  offset := rfl
  widthF := rfl
  widthDc := hlen
  slotsF _ _ := rfl
  slotsDc i _ := slotAt_of_latchEmpty hDc i
  stamps st j := by simp

/-- An empty slot is passed over. -/
theorem GroupDecoded.skip {s u : State} {k : Nat} (hu : GroupDecoded s k u) (hk : slotAt u.latchF k = none) :
    GroupDecoded s (k + 1) u := by
  have empty : slotAt s.latchF k = none := by
    by_cases hlt : k < s.latchF.length
    · simpa [hk] using (hu.slotsF k hlt).symm
    · exact Option.eq_none_iff_forall_ne_some.2 fun _ hx => hlt (lt_length_of_slotAt hx)
  have below : ∀ i, i ≠ k → (i < k + 1 ↔ i < k) := fun i hik => by omega
  exact
    { hu with
      slotsF := fun i hi => by
        by_cases hik : i = k
        · rw [hik, hk]; simp
        · simp only [hu.slotsF i hi, below i hik]
      slotsDc := fun i hi => by
        by_cases hik : i = k
        · rw [hu.slotsDc i hi, hik, empty, ite_self, ite_self]
        · simp only [hu.slotsDc i hi, below i hik]
      stamps := fun st j => by
        simp only [hu.stamps st j, Nat.exists_lt_succ_right, empty, reduceCtorEq, or_false] }

/-- An occupied slot moves, and its instruction is stamped. -/
theorem GroupDecoded.move {s u : State} {k h : Nat} {r : Record} (hu : GroupDecoded s k u)
    (hk : slotAt u.latchF k = some h) (hr : u.recs[h]? = some r) :
    GroupDecoded s (k + 1) (u.focusOn .Dc k h).decodeOne := by
  have hlt : k < s.latchF.length := hu.widthF ▸ lt_length_of_slotAt hk
  have held : slotAt s.latchF k = some h := by simpa [hk] using (hu.slotsF k hlt).symm
  have below : ∀ i, i ≠ k → (i < k + 1 ↔ i < k) := fun i hik => by omega
  exact
    { frame := hu.frame.decodeOne k h
      offset := hu.offset
      widthF := by simpa using hu.widthF
      widthDc := by simpa using hu.widthDc
      slotsF := fun i hi => by
        rw [State.decodeOne_latchF, State.focusOn_latchF, State.focusOn_focus, slotAt_set _ _ _ (hu.widthF ▸ hi)]
        by_cases hik : i = k
        · simp [hik]
        · simp only [if_neg hik, hu.slotsF i hi, below i hik]
      slotsDc := fun i hi => by
        rw [State.decodeOne_latchDc, State.focusOn_latchDc, State.focusOn_focus, slotAt_set _ _ _ (hu.widthDc ▸ hi)]
        by_cases hik : i = k
        · simp [hik, held]
        · simp only [if_neg hik, hu.slotsDc i hi, below i hik]
      stamps := fun st j => by
        rw [State.stampOf_of_recs_stamp (s := u) hr (State.decodeOne_recs _), hu.stamps st j,
          State.focusOn_currentCycle, hu.frame.cycle]
        simp only [Nat.exists_lt_succ_right, held, Option.some.injEq, eq_comm (a := h), and_or_left]
        by_cases hnew : st = .Dc ∧ j = h
        · simp only [hnew, and_self, or_true, if_true]
        · simp only [hnew, or_false, if_false] }

/-- Decode with `Dc` empty moves every slot. -/
theorem decodeStage_groupDecoded {s t : State} (hDc : latchEmpty s.latchDc = true)
    (hlen : s.latchDc.length = s.latchF.length) (h : decodeStage s = .next t) :
    GroupDecoded s s.config.issueWidth t := by
  rw [decodeStage, if_pos hDc] at h
  have moved := decodeSlots_keeps (fun _ _ hu hk => hu.skip hk) (fun k u x v hu hk hv => by
    obtain ⟨r, hr, -, rfl⟩ := runAt_eq_next.1 hv
    exact hu.move hk hr) _ _ _ _ (groupDecoded_start hDc hlen) h
  rwa [Nat.zero_add] at moved

/-- Settles O27: the statement of `GroupDecoded` at the last slot. -/
theorem decodeMovesTheGroup : Obligations.DecodeMovesTheGroup := by
  intro s t hDc hF hlen h
  have moved := decodeStage_groupDecoded hDc (hlen.trans hF.symm) h
  rw [← hF] at moved ⊢
  have inGroup : ∀ j, (∃ i < s.latchF.length, slotAt s.latchF i = some j) ↔ j ∈ occupied s.latchF := fun j =>
    ⟨fun ⟨i, _, hi⟩ => mem_occupied.2 ⟨i, hi⟩, fun hj =>
      (mem_occupied.1 hj).imp fun _ hi => ⟨lt_length_of_slotAt hi, hi⟩⟩
  refine ⟨latch_ext moved.widthDc fun i hi => ?_, latch_ext (by simp [moved.widthF]) fun i hi => ?_, fun j _ => ?_,
    fun j st hst => ?_, moved.frame.map, moved.frame.rdy, moved.frame.free, moved.frame.iq, moved.frame.rob,
    moved.frame.wbq, moved.frame.latchR, moved.frame.latchDi, moved.offset⟩
  · rw [moved.widthDc] at hi
    rw [moved.slotsDc i hi, if_pos hi]
  · rw [moved.widthF] at hi
    rw [moved.slotsF i hi, if_pos hi, slotAt_emptyLatch]
  · simp only [moved.stamps, inGroup, true_and]
  · rw [moved.stamps, if_neg fun hc => hst hc.1]

/-! ### Fetch -/

/-- A property indexed by the slot reached, kept by every fetch, holds where Fetch's loop ends; before its last slot it
ends only where the trace does. -/
theorem fetchSlots_reaches {P : Nat → State → Prop}
    (take : ∀ k s i t, P k s → s.config.trace[s.fetchOffset]? = some i →
      exec i (s.focusOn .F k s.fetchOffset) = .next t → P (k + 1) t) :
    ∀ n k s t, P k s → fetchSlots n k s = .next t →
      ∃ m ≤ n, P (k + m) t ∧ (m < n → t.config.trace[t.fetchOffset]? = none) := by
  intro n
  induction n with
  | zero =>
    intro k s t hs h
    rw [fetchSlots, next_inj] at h
    exact ⟨0, le_rfl, h ▸ hs, fun hlt => absurd hlt (Nat.lt_irrefl 0)⟩
  | succ n ih =>
    intro k s t hs h
    rw [fetchSlots] at h
    split at h
    · next hend => exact ⟨0, Nat.zero_le _, next_inj.1 h ▸ hs, fun _ => next_inj.1 h ▸ hend⟩
    · next i hi =>
      obtain ⟨u, hu, ht⟩ := andThen_eq_next.1 h
      obtain ⟨m, hm, reached, ended⟩ := ih _ u t (take k s i u hs hi hu) ht
      exact ⟨m + 1, by omega, by rwa [Nat.add_assoc, Nat.add_comm 1] at reached, fun hlt => ended (by omega)⟩

/-- Fetch of `s` has filled the `k` leftmost slots in state `u`, with the next `k` records of the trace. -/
structure GroupFetched (s : State) (k : Nat) (u : State) : Prop where
  frame : FrontEndOnly s u
  latchDc : u.latchDc = s.latchDc
  offset : u.fetchOffset = s.fetchOffset + k
  width : u.latchF.length = s.latchF.length
  slots : ∀ i < s.latchF.length, slotAt u.latchF i = if i < k then some (s.fetchOffset + i) else none
  count : u.recs.length = s.recs.length
  fetched : ∀ j, s.fetchOffset ≤ j → j < s.fetchOffset + k →
    ∃ i, s.config.trace[j]? = some i ∧ u.recs[j]? = some (Record.fetchedAs i j s.currentCycle)
  kept : ∀ j, j < s.fetchOffset ∨ s.fetchOffset + k ≤ j → u.recs[j]? = s.recs[j]?

theorem groupFetched_start {s : State} (hF : latchEmpty s.latchF = true) : GroupFetched s 0 s where
  frame := .refl s
  latchDc := rfl
  offset := rfl
  width := rfl
  slots i _ := slotAt_of_latchEmpty hF i
  count := rfl
  fetched _ hj hj' := absurd hj' (Nat.not_lt_of_le hj)
  kept _ _ := rfl

/-- The next record of the trace goes into the next slot. -/
theorem GroupFetched.fetchOne {s u : State} {k : Nat} {i : Instr} (hN : s.recs.length = s.config.trace.length)
    (hu : GroupFetched s k u) (hi : u.config.trace[u.fetchOffset]? = some i) :
    GroupFetched s (k + 1) ((u.focusOn .F k u.fetchOffset).fetchOne i) := by
  rw [hu.frame.config] at hi
  have inTable : u.fetchOffset < u.recs.length := by
    rw [hu.count, hN]
    exact (List.getElem?_eq_some_iff.1 hi).1
  have written : ∀ j, ((u.focusOn .F k u.fetchOffset).fetchOne i).recs[j]? =
      if j = s.fetchOffset + k then some (Record.fetchedAs i j s.currentCycle) else u.recs[j]? := fun j => by
    rw [State.getElem?_fetchOne_recs i (u.focusOn .F k u.fetchOffset) inTable, State.focusOn_fetchOffset,
      State.focusOn_currentCycle, State.focusOn_recs, hu.offset, hu.frame.cycle]
  exact
    { frame := hu.frame.fetchOne k _ i
      latchDc := hu.latchDc
      offset := congrArg (· + 1) hu.offset
      width := by simpa using hu.width
      slots := fun x hx => by
        rw [State.fetchOne_latchF, State.focusOn_latchF, State.focusOn_focus, State.focusOn_fetchOffset,
          slotAt_set _ _ _ (hu.width ▸ hx), hu.slots x hx, hu.offset]
        by_cases hxk : x = k
        · simp [hxk]
        · have below : x < k + 1 ↔ x < k := by omega
          simp only [if_neg hxk, below]
      count := by rw [State.fetchOne_recs, List.length_set]; exact hu.count
      fetched := fun j hj hj' => by
        rw [written]
        by_cases hjk : j = s.fetchOffset + k
        · exact ⟨i, by rw [hjk, ← hu.offset, hi], if_pos hjk⟩
        · rw [if_neg hjk]
          exact hu.fetched j hj (by omega)
      kept := fun j hj => by
        rw [written, if_neg (by omega)]
        exact hu.kept j (by omega) }

/-- No more is fetched than the trace has left. -/
theorem GroupFetched.le_left {s u : State} {k : Nat} (hu : GroupFetched s k u) :
    k ≤ s.config.trace.length - s.fetchOffset := by
  cases k with
  | zero => exact Nat.zero_le _
  | succ k =>
    obtain ⟨i, hi, -⟩ := hu.fetched (s.fetchOffset + k) (by omega) (by omega)
    have := (List.getElem?_eq_some_iff.1 hi).1
    omega

/-- Fetch with `F` empty fills as many slots as there are, or as many as the trace has left. -/
theorem fetchStage_groupFetched {s t : State} (hF : latchEmpty s.latchF = true)
    (hN : s.recs.length = s.config.trace.length) (h : fetchStage s = .next t) :
    GroupFetched s (min s.config.issueWidth (s.config.trace.length - s.fetchOffset)) t := by
  rw [fetchStage, if_pos hF] at h
  obtain ⟨m, hm, fetched, ended⟩ := fetchSlots_reaches (P := GroupFetched s) (fun k u i v hu hi hv => by
    obtain ⟨-, rfl⟩ := exec_eq_next.1 hv
    exact hu.fetchOne hN hi) _ _ _ _ (groupFetched_start hF) h
  rw [Nat.zero_add] at fetched
  have left := fetched.le_left
  have all : m < s.config.issueWidth → s.config.trace.length ≤ s.fetchOffset + m := fun hlt => by
    simpa [fetched.frame.config, fetched.offset] using ended hlt
  have hmin : min s.config.issueWidth (s.config.trace.length - s.fetchOffset) = m := by omega
  rwa [hmin]

/-- Settles O28: the statement of `GroupFetched` where the group or the trace ends. -/
theorem fetchFillsTheGroup : Obligations.FetchFillsTheGroup := by
  intro s t hF hW hN h
  have filled := fetchStage_groupFetched hF hN h
  refine ⟨_, rfl, filled.offset, latch_ext ?_ fun i hi => ?_, fun j hj hj' => ?_, filled.kept, filled.frame.map,
    filled.frame.rdy, filled.frame.free, filled.frame.iq, filled.frame.rob, filled.frame.wbq, filled.latchDc,
    filled.frame.latchR, filled.frame.latchDi⟩
  · simp [filled.width, hW]
  · rw [filled.slots i (filled.width ▸ hi), slotAt_range'_append_emptyLatch]
  · obtain ⟨i, hi, hr⟩ := filled.fetched j hj hj'
    refine ⟨_, hr, hi, rfl, rfl, rfl, rfl, rfl, fun st hst => ?_⟩
    rw [State.stampOf_of_getElem? hr, Record.fetchedAs, Stamps.get_put_of_ne _ _ hst, Stamps.get_unset]

end Sys2Proof.Machine

/-! # The select pass of Issue (45_issue.md R181, R182, R184)

What is selected is a fact about a list: the `W` first of the eligible entries in ascending age. What Issue does with a
selection is a statement about the entries issued so far (`Issued`), which each further one keeps. -/

namespace Sys2Proof.Machine

open Sys2Proof

/-! ### The queue in ascending age -/

theorem perm_byAge (iq : List IQEntry) : (byAge iq).Perm iq := List.perm_insertionSort _ iq

theorem byAge_ages_le (iq : List IQEntry) : (byAge iq).Pairwise fun x y => x.age ≤ y.age := by
  have total : Std.Total fun x y : IQEntry => x.age ≤ y.age := ⟨fun x y => Nat.le_total x.age y.age⟩
  have trans : IsTrans IQEntry fun x y => x.age ≤ y.age := ⟨fun _ _ _ => Nat.le_trans⟩
  exact List.pairwise_insertionSort _ iq

/-- With no age twice, each entry of the sorted queue is younger than those before it. -/
theorem byAge_ages_lt {iq : List IQEntry} (hages : (iq.map IQEntry.age).Nodup) :
    (byAge iq).Pairwise fun x y => x.age < y.age := by
  have distinct : ((byAge iq).map IQEntry.age).Nodup := ((perm_byAge iq).map IQEntry.age).nodup_iff.2 hages
  exact ((byAge_ages_le iq).and (List.pairwise_map.1 distinct)).imp fun h => Nat.lt_of_le_of_ne h.1 h.2

/-! ### The selection -/

theorem IQEntry.eligible_iff {e : IQEntry} : e.eligible = true ↔ e.src1Ready = true ∧ e.src2Ready = true :=
  Bool.and_eq_true_iff

/-- The eligible entries in ascending age, of which the selection is the `W` first. -/
def State.candidates (s : State) : List IQEntry := (byAge s.iq).filter IQEntry.eligible

theorem State.selected_eq_take (s : State) : s.selected = s.candidates.take s.config.issueWidth := rfl

theorem State.mem_candidates {s : State} {e : IQEntry} : e ∈ s.candidates ↔ e ∈ s.iq ∧ e.eligible = true := by
  rw [State.candidates, List.mem_filter, (perm_byAge s.iq).mem_iff]

theorem State.length_candidates (s : State) : s.candidates.length = s.iq.countP IQEntry.eligible := by
  rw [State.candidates, ← List.countP_eq_length_filter, (perm_byAge s.iq).countP_eq]

theorem State.candidates_ages_lt {s : State} (hages : (s.iq.map IQEntry.age).Nodup) :
    s.candidates.Pairwise fun x y => x.age < y.age :=
  (byAge_ages_lt hages).filter _

theorem State.length_selected (s : State) :
    s.selected.length = min s.config.issueWidth (s.iq.countP IQEntry.eligible) := by
  rw [s.selected_eq_take, List.length_take, s.length_candidates]

theorem State.selected_ages_lt {s : State} (hages : (s.iq.map IQEntry.age).Nodup) :
    (s.selected.map IQEntry.age).Pairwise (· < ·) :=
  List.pairwise_map.2 (State.candidates_ages_lt hages).take

theorem State.mem_iq_of_mem_selected {s : State} {e : IQEntry} (he : e ∈ s.selected) :
    e ∈ s.iq ∧ e.eligible = true :=
  State.mem_candidates.1 (List.mem_of_mem_take he)

/-- A candidate left out stands behind all those taken. -/
theorem State.age_lt_of_not_mem_selected {s : State} (hages : (s.iq.map IQEntry.age).Nodup) {e x : IQEntry}
    (he : e ∈ s.candidates) (hout : e ∉ s.selected) (hx : x ∈ s.selected) : x.age < e.age := by
  have sorted := State.candidates_ages_lt hages
  rw [s.selected_eq_take] at hout hx
  rw [← s.candidates.take_append_drop s.config.issueWidth] at he sorted
  have left : e ∈ s.candidates.drop s.config.issueWidth := (List.mem_append.1 he).resolve_left hout
  exact (List.pairwise_append.1 sorted).2.2 x hx e left

/-! ### The issue of a selection -/

/-- Issue of `s` has come to state `u` with the entries `es` issued: their instructions are on the tail of the writeback
queue, and they are the ones stamped. -/
structure Issued (s : State) (es : List IQEntry) (u : State) : Prop where
  cycle : u.currentCycle = s.currentCycle
  wbq : u.wbq = s.wbq ++ es.map IQEntry.instrRef
  stamps : ∀ st j, u.stampOf st j =
    if st = .IS ∧ j ∈ es.map IQEntry.instrRef then some s.currentCycle else s.stampOf st j

theorem Issued.start (s : State) : Issued s [] s where
  cycle := rfl
  wbq := (List.append_nil _).symm
  stamps st j := by simp

/-- One more entry is issued. -/
theorem Issued.issueOne {s u : State} {es : List IQEntry} {e : IQEntry} {r : Record} (b : Bool) (hu : Issued s es u)
    (hr : u.recs[e.instrRef]? = some r) : Issued s (es ++ [e]) ((u.focusOn .IS 0 e.instrRef).issueOne b) where
  cycle := hu.cycle
  wbq := by simp [hu.wbq]
  stamps st j := by
    rw [State.stampOf_of_recs_stamp (s := u) hr (State.issueOne_recs b _), State.focusOn_currentCycle, hu.cycle,
      hu.stamps]
    by_cases hlast : st = .IS ∧ j = e.instrRef
    · simp [hlast]
    · simp only [List.map_append, List.map_singleton, List.mem_append, List.mem_singleton, and_or_left, hlast, or_false,
        if_false]

/-- The wakeup pass is no part of the issue: it writes neither the writeback queue nor a stamp. -/
theorem Issued.wakeup {s u : State} {es : List IQEntry} (hu : Issued s es u) : Issued s es u.wakeup :=
  ⟨hu.cycle, hu.wbq, hu.stamps⟩

/-- Issue of a list of entries issues each of them. -/
theorem issueEach_issued {s t : State} {es : List IQEntry} (h : issueEach es s = .next t) : Issued s es t := by
  obtain ⟨issued, hall, ht⟩ := issueEach_keeps (P := fun rest u => ∃ issued, issued ++ rest = es ∧ Issued s issued u)
    (fun e rest u v ⟨issued, hsplit, hu⟩ hv => by
      obtain ⟨r, hr, -, rfl⟩ := runAt_eq_next.1 hv
      exact ⟨issued ++ [e], by rw [List.append_assoc, List.singleton_append, hsplit], hu.issueOne _ hr⟩)
    es s t ⟨[], rfl, .start s⟩ h
  rw [List.append_nil] at hall
  exact hall ▸ ht

theorem issueStage_issued {s t : State} (h : issueStage s = .next t) : Issued s s.selected t := by
  obtain ⟨u, hu, ht⟩ := andThen_eq_next.1 h
  exact next_inj.1 ht ▸ (issueEach_issued hu).wakeup

/-- Settles O23: the entries are those of `State.selected`, and `Issued` says what becomes of them. -/
theorem issueSelectsTheOldestEligible : Obligations.IssueSelectsTheOldestEligible := by
  intro s t hages h
  have issued := issueStage_issued h
  refine ⟨s.selected, issued.wbq, State.selected_ages_lt hages, s.length_selected, fun e he => ?_,
    fun e he h₁ h₂ hout x hx => ?_, fun j _ => ?_⟩
  · obtain ⟨hmem, heligible⟩ := State.mem_iq_of_mem_selected he
    exact ⟨hmem, IQEntry.eligible_iff.1 heligible⟩
  · have candidate : e ∈ s.candidates := State.mem_candidates.2 ⟨he, IQEntry.eligible_iff.2 ⟨h₁, h₂⟩⟩
    exact State.age_lt_of_not_mem_selected hages candidate hout hx
  · simp only [issued.stamps, true_and]

end Sys2Proof.Machine

/-! # What one handling does to the records and the register tables

Said once for every stage: `runAt_recs` for the record table, `pass_registers` for the map table, the ready table and the
free list. `run_keeps` is the induction over the steps of a run. -/

namespace Sys2Proof.Machine

open Sys2Proof

/-- A run of one step more begins with a step. -/
theorem run_succ_eq_next {M : Host.Core} {k : Nat} {s t : M.State} (h : M.run (k + 1) s = .next t) :
    ∃ u, M.step s = .next u ∧ M.run k u = .next t := by
  rw [Host.Core.run] at h
  split at h
  · next u hu => exact ⟨u, hu, h⟩
  · cases h
  · cases h

/-- A property kept by every step is kept by any number of steps. -/
theorem run_keeps {P : State → Prop} (hP : ∀ s t, P s → step s = .next t → P t) :
    ∀ (k : Nat) (s t : State), P s → Host.Core.run core k s = .next t → P t := by
  intro k
  induction k with
  | zero => intro s t hs h; exact next_inj.1 h ▸ hs
  | succ k ih =>
    intro s t hs h
    obtain ⟨u, hu, ht⟩ := run_succ_eq_next h
    exact ih u t (hP s u hs hu) ht

/-- What stage `st` of `s` makes of the record it handles: the stamp, the instruction kept, and for a producing
instruction no new destination that was not free. -/
structure Handled (s : State) (st : Stage) (r r' : Record) : Prop where
  instr : r'.instr = r.instr
  cycle : r'.cycle = r.cycle.put st s.currentCycle
  physDst : r'.physDst = r.physDst ∨ (r.instr.produces = true → ∃ p ∈ s.free, r'.physDst = some p)

theorem handled_stamp (s : State) (st : Stage) (r : Record) : Handled s st r (r.stamp st s.currentCycle) :=
  ⟨rfl, rfl, .inl rfl⟩

/-- All that one handling at a stage after Fetch does to the records: nothing, where Rename stalls, or one record is
handled. -/
theorem runAt_recs {st : Stage} {k h : Nat} {s t : State} (hst : st ≠ .F) (ht : runAt st k h s = .next t) :
    t.recs = s.recs ∨ ∃ r r', s.recs[h]? = some r ∧ t.recs = s.recs.set h r' ∧ Handled s st r r' := by
  obtain ⟨r, hr, hwf, rfl⟩ := runAt_eq_next.1 ht
  have stamped {u : State} (hu : u.recs = s.recs.modify h (Record.stamp st s.currentCycle)) :
      u.recs = s.recs ∨ ∃ r r', s.recs[h]? = some r ∧ u.recs = s.recs.set h r' ∧ Handled s st r r' :=
    .inr ⟨r, _, hr, hu.trans (modify_of_getElem? _ hr), handled_stamp s st r⟩
  cases st with
  | F => exact absurd rfl hst
  | Dc => exact stamped rfl
  | Di => exact stamped rfl
  | IS => exact stamped rfl
  | W => exact stamped rfl
  | C => exact stamped rfl
  | R =>
    have renamed {u : State} {x y : Operand} {p : Nat} (hu : u.recs = (s.focusOn .R k h).completeRename x y p)
        (hp : r.instr.produces = true → p ∈ s.free) :
        u.recs = s.recs ∨ ∃ r r', s.recs[h]? = some r ∧ u.recs = s.recs.set h r' ∧ Handled s .R r r' :=
      .inr ⟨r, _, hr, hu.trans (modify_of_getElem? _ hr), rfl, rfl, .inr fun hpr => ⟨p, hp hpr, rfl⟩⟩
    have takesNone {p : Nat} (hd : (rolesOf r.instr).dst.producing = false) :
        r.instr.produces = true → p ∈ s.free := fun hp => by
      rw [rolesOf_producing hwf, hp] at hd
      cases hd
    rw [pass_R]
    obtain ⟨-, -, hu⟩ | ⟨_, _, _, -, hfree, hu⟩ | ⟨hd, hu⟩ | ⟨_, hd, hu⟩ :=
      renameOne_cases (rolesOf r.instr).src1 (rolesOf r.instr).src2 (rolesOf r.instr).dst (s.focusOn .R k h)
    · exact .inl (by rw [hu]; rfl)
    · exact renamed (by rw [hu]) fun _ => hfree ▸ List.mem_cons_self
    · exact renamed (by rw [hu]) (takesNone (by rw [hd]; rfl))
    · exact renamed (by rw [hu]) (takesNone (by rw [hd]; rfl))

/-- All that the handling of one instruction does to the register tables: nothing; Rename maps the head of the free list;
or Writeback or Commit raises the ready bit of the own register, which Commit frees. -/
theorem pass_registers (i : Instr) (ro : Roles) (s : State) :
    ((s.pass i ro).map = s.map ∧ (s.pass i ro).rdy = s.rdy ∧ (s.pass i ro).free = s.free) ∨
    (∃ a p rest, ro.dst = .alloc a ∧ s.free = p :: rest ∧
      (s.pass i ro).map = s.map.set a p ∧ (s.pass i ro).rdy = s.rdy.set p false ∧ (s.pass i ro).free = rest) ∨
    ((s.pass i ro).map = s.map ∧ (s.pass i ro).rdy = setReady s.rdy (s.ownReg ro.dst.producing s.focus.handle) ∧
      ((s.pass i ro).free = s.free ∨ (s.pass i ro).free = s.free ++ s.ownReg ro.dst.producing s.focus.handle)) := by
  unfold State.pass
  split
  · exact .inl ⟨rfl, rfl, rfl⟩
  · exact .inl ⟨rfl, rfl, rfl⟩
  · obtain ⟨-, -, h⟩ | ⟨a, p, rest, hd, hfree, h⟩ | ⟨-, h⟩ | ⟨_, -, h⟩ := renameOne_cases ro.src1 ro.src2 ro.dst s
    · exact .inl (by simp only [h, and_self])
    · exact .inr (.inl ⟨a, p, rest, hd, hfree, by simp only [h, and_self]⟩)
    · exact .inl (by simp only [h, and_self])
    · exact .inl (by simp only [h, and_self])
  · exact .inl ⟨rfl, rfl, rfl⟩
  · exact .inl ⟨rfl, rfl, rfl⟩
  · exact .inr (.inr ⟨rfl, rfl, .inl rfl⟩)
  · exact .inr (.inr ⟨rfl, rfl, .inr rfl⟩)

end Sys2Proof.Machine

/-! # Register 0 (48_invariants.md R219)

No producing instruction has destination 0, so Rename never maps architectural register 0; and Rename takes only free
registers, Commit frees only what Rename took, so physical register 0 never comes onto the free list. -/

namespace Sys2Proof.Machine

open Sys2Proof

/-! ### What exec does with register 0 -/

/-- Only a nonzero destination takes a register. -/
theorem ofReg_eq_alloc {a d : Fin 32} (h : Dest.ofReg a = .alloc d) : d ≠ 0 := by
  unfold Dest.ofReg at h
  split at h
  · cases h
  · next ha => cases h; exact ha

theorem rolesOf_dst_eq_alloc {i : Instr} {d : Fin 32} (h : (rolesOf i).dst = .alloc d) : d ≠ 0 := by
  cases i with
  | regOp => exact ofReg_eq_alloc h
  | immOp => exact ofReg_eq_alloc h
  | load => exact ofReg_eq_alloc h
  | store => cases h

theorem getElem?_setReady_of_not_mem {ps : List Nat} {q : Nat} (h : q ∉ ps) (rdy : List Bool) :
    (setReady rdy ps)[q]? = rdy[q]? := by
  induction ps generalizing rdy with
  | nil => rfl
  | cons p ps ih =>
    obtain ⟨hne, hps⟩ := List.ne_and_not_mem_of_not_mem_cons h
    exact (ih hps (rdy.set p true)).trans (List.getElem?_set_ne (Ne.symm hne))

theorem State.not_mem_ownReg {b : Bool} {p h : Nat} {s : State} (hp : b = true → s.physDstOf h ≠ some p) :
    p ∉ s.ownReg b h := by
  unfold State.ownReg
  split
  · next hb => exact fun hmem => hp hb (Option.mem_toList.1 hmem)
  · exact List.not_mem_nil

theorem exec_map_zero {i : Instr} {s t : State} (ht : exec i s = .next t) :
    t.map[(0 : Fin 32)] = s.map[(0 : Fin 32)] := by
  obtain ⟨-, rfl⟩ := exec_eq_next.1 ht
  obtain ⟨hmap, -⟩ | ⟨a, p, _, hd, -, hmap, -⟩ | ⟨hmap, -⟩ := pass_registers i (rolesOf i) s
  · rw [hmap]
  · have nonzero : (a : Nat) ≠ 0 := fun ha => rolesOf_dst_eq_alloc hd (Fin.ext ha)
    rw [hmap]
    exact Vector.getElem_set_ne _ _ nonzero
  · rw [hmap]

section
variable {i : Instr} {s t : State} (ht : exec i s = .next t) (hfree : 0 ∉ s.free)
  (hown : i.produces = true → s.physDstOf s.focus.handle ≠ some 0)
include ht hfree hown

theorem exec_rdy_zero : t.rdy[0]? = s.rdy[0]? := by
  obtain ⟨hwf, rfl⟩ := exec_eq_next.1 ht
  obtain ⟨-, hrdy, -⟩ | ⟨_, p, _, -, hp, -, hrdy, -⟩ | ⟨-, hrdy, -⟩ := pass_registers i (rolesOf i) s
  · rw [hrdy]
  · have nonzero : p ≠ 0 := fun h0 => hfree (hp ▸ h0 ▸ List.mem_cons_self)
    rw [hrdy, List.getElem?_set_ne nonzero]
  · rw [← rolesOf_producing hwf] at hown
    rw [hrdy, getElem?_setReady_of_not_mem (State.not_mem_ownReg hown)]

theorem exec_zero_not_mem_free : 0 ∉ t.free := by
  obtain ⟨hwf, rfl⟩ := exec_eq_next.1 ht
  rw [← rolesOf_producing hwf] at hown
  obtain ⟨-, -, hf⟩ | ⟨_, p, rest, -, hp, -, -, hf⟩ | ⟨-, -, hf | hf⟩ := pass_registers i (rolesOf i) s
  · rwa [hf]
  · rw [hf]
    exact fun h0 => hfree (hp ▸ List.mem_cons_of_mem p h0)
  · rwa [hf]
  · rw [hf, List.mem_append, not_or]
    exact ⟨hfree, State.not_mem_ownReg hown⟩

end

/-! ### The invariant -/

/-- Register 0 is ready, mapped to itself, not free, and no producing instruction's destination (R219). -/
structure ZeroSpared (s : State) : Prop where
  ready : readyBit s.rdy 0 = true
  mapped : s.map[(0 : Fin 32)] = 0
  notFree : 0 ∉ s.free
  notDst : ∀ r ∈ s.recs, r.instr.produces = true → r.physDst ≠ some 0

theorem ZeroSpared.of_eq {s t : State} (hs : ZeroSpared s) (hrdy : t.rdy = s.rdy) (hmap : t.map = s.map)
    (hfree : t.free = s.free) (hrecs : t.recs = s.recs) : ZeroSpared t :=
  ⟨hrdy ▸ hs.ready, hmap ▸ hs.mapped, hfree ▸ hs.notFree, hrecs ▸ hs.notDst⟩

theorem Instr.op1_ne_zero_of_produces {i : Instr} (h : i.produces = true) : i.op1 ≠ 0 := by
  cases i with
  | regOp => exact bne_iff_ne.1 h
  | immOp => exact bne_iff_ne.1 h
  | load => exact bne_iff_ne.1 h
  | store => cases h

/-- A record mapped to is that of a producing instruction, whose destination is not register 0. -/
theorem mappingAfter_zero (rs : List Record) : mappingAfter 0 rs = 0 := by
  have none_maps : rs.filter (Record.mapsTo 0) = [] := by
    refine List.filter_eq_nil_iff.2 fun r _ hr => ?_
    rw [Record.mapsTo, Bool.and_eq_true, Bool.and_eq_true, beq_iff_eq] at hr
    exact Instr.op1_ne_zero_of_produces hr.1.2 hr.2
  rw [mappingAfter, none_maps]
  rfl

theorem Config.physRegCount_pos {c : Config} (h : c.legal = true) : 0 < c.physRegCount := by
  simp only [Config.legal, Config.widthsLegal, Bool.and_eq_true, decide_eq_true_eq] at h
  omega

theorem Inv.zeroSpared {s : State} (hs : Inv s) : ZeroSpared s := by
  have notDst : ∀ r ∈ s.recs, r.instr.produces = true → r.physDst ≠ some 0 := fun r hr hp h0 => by
    obtain ⟨j, hj, hget⟩ := List.mem_iff_getElem.1 hr
    obtain ⟨-, -, -, hrange⟩ := hs.registers.filled j hj r (hget ▸ List.getElem?_eq_getElem hj)
    exact absurd (hrange hp 0 h0).1 (by decide)
  refine ⟨?_, (hs.mapped 0).trans (mappingAfter_zero s.recs), fun h0 => ?_, notDst⟩
  · refine Bool.eq_true_of_not_eq_false fun hrdy => ?_
    obtain ⟨j, hj, hholds, -⟩ := (hs.registers.ready 0 (Config.physRegCount_pos hs.shaped.legal)).1 hrdy
    have hget := List.getElem?_eq_getElem hj
    simp only [State.holds, State.producesAt, State.physDstOf, hget, Option.map_some, Option.getD_some,
      Option.bind_some, Bool.and_eq_true, beq_iff_eq] at hholds
    exact notDst _ (List.getElem_mem hj) hholds.1.1 hholds.2
  · exact absurd (hs.registers.freeList.2 0 h0).1 (by decide)

/-- The handling of one instruction keeps register 0 spared. -/
theorem ZeroSpared.of_runAt {st : Stage} {k h : Nat} {s t : State} (hs : ZeroSpared s) (hst : st ≠ .F)
    (ht : runAt st k h s = .next t) : ZeroSpared t := by
  obtain ⟨r, hr, hwf, hpass⟩ := runAt_eq_next.1 ht
  have hexec : exec r.instr (s.focusOn st k h) = .next t := exec_eq_next.2 ⟨hwf, hpass⟩
  have hown : r.instr.produces = true → (s.focusOn st k h).physDstOf h ≠ some 0 := fun hp => by
    rw [State.physDstOf, State.focusOn_recs, hr, Option.bind_some]
    exact hs.notDst r (List.mem_of_getElem? hr) hp
  refine ⟨?_, (exec_map_zero hexec).trans hs.mapped, exec_zero_not_mem_free hexec hs.notFree hown, fun x hx hp => ?_⟩
  · have hrdy := exec_rdy_zero hexec hs.notFree hown
    have hready := hs.ready
    rw [readyBit, List.getD_eq_getElem?_getD] at hready ⊢
    rwa [hrdy]
  · obtain hrecs | ⟨r, r', hr, hrecs, handled⟩ := runAt_recs hst ht
    · exact hs.notDst x (hrecs ▸ hx) hp
    · rw [hrecs] at hx
      obtain hold | rfl := List.mem_or_eq_of_mem_set hx
      · exact hs.notDst x hold hp
      · rw [handled.instr] at hp
        obtain hdst | hdst := handled.physDst
        · exact hdst ▸ hs.notDst r (List.mem_of_getElem? hr) hp
        · obtain ⟨p, hfree, hp⟩ := hdst hp
          exact fun h0 => hs.notFree (Option.some.inj (hp.symm.trans h0) ▸ hfree)

/-- A fetched record has no destination yet. -/
theorem ZeroSpared.fetchOne {s : State} (hs : ZeroSpared s) (i : Instr) : ZeroSpared (s.fetchOne i) where
  ready := hs.ready
  mapped := hs.mapped
  notFree := hs.notFree
  notDst x hx hp := by
    rw [State.fetchOne_recs] at hx
    obtain hold | rfl := List.mem_or_eq_of_mem_set hx
    · exact hs.notDst x hold hp
    · exact nofun

theorem ZeroSpared.of_step {s t : State} (hs : ZeroSpared s) (h : step s = .next t) : ZeroSpared t := by
  obtain ⟨-, ⟨-, rfl⟩ | ⟨-, h⟩⟩ := advance_eq_next h
  · exact hs
  · refine tick_keeps (fun _ hs => hs.of_eq rfl rfl rfl rfl) (fun _ hs => hs.of_eq rfl rfl rfl rfl)
      (fun _ hs => hs.of_eq rfl rfl rfl rfl) (fun _ hs => hs.of_eq rfl rfl rfl rfl)
      (fun s hs => hs.of_eq s.takeGroup_rdy s.takeGroup_map s.takeGroup_free s.takeGroup_recs)
      (fun _ _ _ _ _ hst hs ht => hs.of_runAt hst ht) (fun i k s t hs _ ht => ?_) hs h
    obtain ⟨-, rfl⟩ := exec_eq_next.1 ht
    have focused : ZeroSpared (s.focusOn .F k s.fetchOffset) := hs.of_eq rfl rfl rfl rfl
    exact focused.fetchOne i

/-- Settles O47: `ZeroSpared` at every point of a run, and what `exec` does with register 0. -/
theorem zeroRegisterIsImmutable : Obligations.ZeroRegisterIsImmutable := by
  refine ⟨fun s t k hs h => ?_, fun i s t ht => ⟨exec_map_zero ht, exec_rdy_zero ht⟩⟩
  have spared := run_keeps (fun _ _ hs h => ZeroSpared.of_step hs h) k s t hs.zeroSpared h
  refine ⟨spared.ready, spared.mapped, spared.notFree, fun j hj hp h0 => ?_⟩
  have hget := List.getElem?_eq_getElem hj
  rw [State.producesAt, hget] at hp
  rw [State.physDstOf, hget] at h0
  exact spared.notDst _ (List.getElem_mem hj) hp h0

end Sys2Proof.Machine

/-! # The width of a tick (48_invariants.md R230)

Each stage's loop handles at most `W` instructions, and one handling puts the cycle number on one stamp of its own stage.
So the numbers of instructions that pass the stages add up along a tick (`Passes`), and before the tick no stamp is the
cycle number. -/

namespace Sys2Proof.Machine

open Sys2Proof

/-! ### Counting stamps -/

theorem State.widthUsed_eq_countP (s : State) (st : Stage) (v : Nat) :
    s.widthUsed st v = s.recs.countP fun r => r.cycle.get st == some v :=
  List.countP_eq_length_filter.symm

/-- Writing one entry anew adds at most `n` to a count, where an entry that counts and did not before makes `n` at
least 1. -/
theorem countP_set_le {α : Type} {p : α → Bool} {l : List α} {k n : Nat} {a : α}
    (h : p a = true → (∃ b, l[k]? = some b ∧ p b = true) ∨ 1 ≤ n) : (l.set k a).countP p ≤ l.countP p + n := by
  by_cases hk : k < l.length
  · have counted := List.boole_getElem_le_countP (p := p) (l := l) (i := k) hk
    rw [List.countP_set hk]
    by_cases ha : p a = true
    · obtain ⟨b, hb, hp⟩ | hn := h ha
      · rw [List.getElem?_eq_getElem hk, Option.some.injEq] at hb
        rw [if_pos (hb ▸ hp)] at counted ⊢
        rw [if_pos ha]
        omega
      · rw [if_pos ha]
        omega
    · rw [if_neg ha]
      omega
  · rw [List.set_eq_of_length_le (Nat.le_of_not_lt hk)]
    exact Nat.le_add_right _ _

/-- A stamp found after one stamping was there before it, or is that one. -/
theorem Stamps.get_put_cases {c : Stamps} {x st : Stage} {n v : Nat} (h : (c.put x n).get st = some v) :
    c.get st = some v ∨ (st = x ∧ v = n) := by
  by_cases hst : st = x
  · subst hst
    rw [Stamps.get_put, Option.some.injEq] at h
    exact .inr ⟨rfl, h.symm⟩
  · exact .inl (Stamps.get_put_of_ne c n hst ▸ h)

/-! ### How many instructions pass each stage -/

/-- `t` is reached from `s` within one tick, and at most `f st` instructions have passed stage `st` on the way. -/
structure Passes (s t : State) (f : Stage → Nat) : Prop where
  config : t.config = s.config
  cycle : t.currentCycle = s.currentCycle
  width : ∀ st v, t.widthUsed st v ≤ s.widthUsed st v + if v = s.currentCycle then f st else 0

theorem Passes.of_recs_eq {s t : State} {f : Stage → Nat} (hc : t.config = s.config)
    (hn : t.currentCycle = s.currentCycle) (hr : t.recs = s.recs) : Passes s t f where
  config := hc
  cycle := hn
  width st v := by
    rw [State.widthUsed, hr]
    exact Nat.le_add_right _ _

theorem Passes.refl (s : State) (f : Stage → Nat) : Passes s s f := .of_recs_eq rfl rfl rfl

theorem Passes.mono {s t : State} {f g : Stage → Nat} (h : Passes s t f) (hfg : f ≤ g) : Passes s t g where
  config := h.config
  cycle := h.cycle
  width st v := by
    refine (h.width st v).trans (Nat.add_le_add_left ?_ _)
    split
    · exact hfg st
    · exact le_rfl

theorem Passes.trans {s t u : State} {f g : Stage → Nat} (hst : Passes s t f) (htu : Passes t u g) :
    Passes s u (f + g) where
  config := htu.config.trans hst.config
  cycle := htu.cycle.trans hst.cycle
  width st v := by
    have first := hst.width st v
    have second := htu.width st v
    rw [hst.cycle] at second
    by_cases hv : v = s.currentCycle
    · rw [if_pos hv] at first second ⊢
      rw [Pi.add_apply]
      omega
    · rw [if_neg hv] at first second ⊢
      omega

/-- Passing one stage `m` times and then `n` times. -/
theorem Passes.trans_single {s t u : State} {x : Stage} {m n : Nat} (hst : Passes s t (Pi.single x m))
    (htu : Passes t u (Pi.single x n)) : Passes s u (Pi.single x (m + n)) := by
  rw [Pi.single_add]
  exact hst.trans htu

theorem Passes.mono_single {s t : State} {x : Stage} {m n : Nat} (h : Passes s t (Pi.single x m)) (hmn : m ≤ n) :
    Passes s t (Pi.single x n) :=
  h.mono (Pi.single_mono x hmn)

/-- One record written anew, whose stamps were there before, but for one that is the cycle number. -/
theorem Passes.of_recs_set {s t : State} {x : Stage} {h : Nat} {r' : Record} (hc : t.config = s.config)
    (hn : t.currentCycle = s.currentCycle) (hr : t.recs = s.recs.set h r')
    (hr' : ∀ {st v}, r'.cycle.get st = some v →
      (∃ r, s.recs[h]? = some r ∧ r.cycle.get st = some v) ∨ (st = x ∧ v = s.currentCycle)) :
    Passes s t (Pi.single x 1) where
  config := hc
  cycle := hn
  width st v := by
    rw [State.widthUsed_eq_countP, State.widthUsed_eq_countP, hr]
    refine countP_set_le fun hv => (hr' (beq_iff_eq.1 hv)).imp
      (fun ⟨r, hr, hv⟩ => ⟨r, hr, beq_iff_eq.2 hv⟩) fun ⟨hst, hv⟩ => ?_
    rw [if_pos hv, hst, Pi.single_eq_same]

/-- One handling at a stage after Fetch. -/
theorem passes_runAt {x : Stage} {k h : Nat} {s t : State} (hx : x ≠ .F) (ht : runAt x k h s = .next t) :
    Passes s t (Pi.single x 1) := by
  have config : t.config = s.config := by
    obtain ⟨r, -, -, rfl⟩ := runAt_eq_next.1 ht
    rw [State.pass_config, State.focusOn_config]
  have cycle := (oneCycle_of_runAt ht).cycle
  obtain hrecs | ⟨r, r', hr, hrecs, handled⟩ := runAt_recs hx ht
  · exact .of_recs_eq config cycle hrecs
  · refine .of_recs_set config cycle hrecs fun hv => ?_
    rw [handled.cycle] at hv
    exact (Stamps.get_put_cases hv).imp_left fun hold => ⟨r, hr, hold⟩

/-- The fetch of one record. -/
theorem passes_fetchOne {i : Instr} {k h : Nat} {s t : State} (ht : exec i (s.focusOn .F k h) = .next t) :
    Passes s t (Pi.single .F 1) := by
  obtain ⟨-, rfl⟩ := exec_eq_next.1 ht
  refine .of_recs_set rfl rfl (State.fetchOne_recs i _) fun hv => ?_
  exact (Stamps.get_put_cases hv).imp_left fun hunset => by cases (Stamps.get_unset _).symm.trans hunset

/-! ### Each stage -/

theorem passes_commitWalk {n : Nat} {s t : State} (h : commitWalk n s = .next t) : Passes s t (Pi.single .C n) := by
  induction n generalizing s with
  | zero => exact next_inj.1 h ▸ .refl s _
  | succ n ih =>
    rw [commitWalk] at h
    split at h
    · exact next_inj.1 h ▸ .refl s _
    · split at h
      · obtain ⟨u, hu, ht⟩ := andThen_eq_next.1 h
        exact Nat.add_comm 1 n ▸ (passes_runAt (by decide) hu).trans_single (ih ht)
      · exact next_inj.1 h ▸ .refl s _

theorem passes_commitStage {s t : State} (h : commitStage s = .next t) :
    Passes s t (Pi.single .C s.config.issueWidth) := passes_commitWalk h

theorem passes_writebackDrain {n : Nat} {s t : State} (h : writebackDrain n s = .next t) :
    Passes s t (Pi.single .W n) := by
  induction n generalizing s with
  | zero => exact next_inj.1 h ▸ .refl s _
  | succ n ih =>
    rw [writebackDrain] at h
    split at h
    · exact next_inj.1 h ▸ .refl s _
    · obtain ⟨u, hu, ht⟩ := andThen_eq_next.1 h
      exact Nat.add_comm 1 n ▸ (passes_runAt (by decide) hu).trans_single (ih ht)

theorem passes_writebackStage {s t : State} (h : writebackStage s = .next t) :
    Passes s t (Pi.single .W s.config.issueWidth) := passes_writebackDrain h

theorem passes_issueStage {s t : State} (h : issueStage s = .next t) :
    Passes s t (Pi.single .IS s.config.issueWidth) := by
  obtain ⟨u, hu, ht⟩ := andThen_eq_next.1 h
  obtain ⟨n, hn, issued⟩ := issueEach_keeps
    (P := fun rest u => ∃ n, n + rest.length = s.selected.length ∧ Passes s u (Pi.single .IS n))
    (fun e rest u v ⟨n, hn, hu⟩ hv =>
      ⟨n + 1, by rw [← hn, List.length_cons]; omega, hu.trans_single (passes_runAt (by decide) hv)⟩)
    _ s u ⟨0, Nat.zero_add _, .refl s _⟩ hu
  have selected : n ≤ s.config.issueWidth := by
    have := s.length_selected
    rw [List.length_nil] at hn
    omega
  have woken : Passes u u.wakeup (Pi.single .IS 0) := .of_recs_eq rfl rfl rfl
  exact next_inj.1 ht ▸ (issued.trans_single woken).mono_single selected

theorem passes_dispatchStage {s t : State} (h : dispatchStage s = .next t) :
    Passes s t (Pi.single .Di s.config.issueWidth) := by
  have cleared : Passes s s.clearDi (Pi.single .Di 0) := .of_recs_eq rfl rfl rfl
  have dispatched := dispatchSlots_keeps (P := fun k u => Passes s u (Pi.single .Di k))
    (fun k _ hu _ => hu.mono_single (Nat.le_succ k))
    (fun _ _ _ _ hu _ _ hv => hu.trans_single (passes_runAt (by decide) hv)) _ _ _ _ cleared h
  rwa [Nat.zero_add] at dispatched

/-- A stalled slot ends the loop and counts as one that passes: the bound needs no more. -/
theorem passes_renameSlots {n k : Nat} {s t : State} (h : renameSlots n k s = .next t) :
    Passes s t (Pi.single .R n) := by
  induction n generalizing k s with
  | zero => exact next_inj.1 h ▸ .refl s _
  | succ n ih =>
    rw [renameSlots] at h
    split at h
    · exact (ih h).mono_single (Nat.le_succ n)
    · split at h
      · exact (ih h).mono_single (Nat.le_succ n)
      · obtain ⟨u, hu, ht⟩ := andThen_eq_next.1 h
        have renamed := passes_runAt (by decide) hu
        split at ht
        · exact Nat.add_comm 1 n ▸ renamed.trans_single (ih ht)
        · exact next_inj.1 ht ▸ renamed.mono_single (Nat.le_add_left 1 n)

theorem passes_renameStage {s t : State} (h : renameStage s = .next t) :
    Passes s t (Pi.single .R s.config.issueWidth) := by
  have taken : Passes s s.takeGroup (Pi.single .R 0) :=
    .of_recs_eq s.takeGroup_config s.takeGroup_currentCycle s.takeGroup_recs
  have renamed : Passes s.takeGroup t (Pi.single .R s.config.issueWidth) := passes_renameSlots h
  exact (taken.trans_single renamed).mono_single (Nat.zero_add _).le

theorem passes_decodeStage {s t : State} (h : decodeStage s = .next t) :
    Passes s t (Pi.single .Dc s.config.issueWidth) := by
  unfold decodeStage at h
  split at h
  · have decoded := decodeSlots_keeps (P := fun k u => Passes s u (Pi.single .Dc k))
      (fun k _ hu _ => hu.mono_single (Nat.le_succ k))
      (fun _ _ _ _ hu _ hv => hu.trans_single (passes_runAt (by decide) hv)) _ _ _ _ (.refl s _) h
    rwa [Nat.zero_add] at decoded
  · exact next_inj.1 h ▸ .refl s _

theorem passes_fetchStage {s t : State} (h : fetchStage s = .next t) :
    Passes s t (Pi.single .F s.config.issueWidth) := by
  unfold fetchStage at h
  split at h
  · obtain ⟨m, hm, fetched, -⟩ := fetchSlots_reaches (P := fun k u => Passes s u (Pi.single .F k))
      (fun _ _ _ _ hu _ hv => hu.trans_single (passes_fetchOne hv)) _ _ _ _ (.refl s _) h
    exact fetched.mono_single (by omega)
  · exact next_inj.1 h ▸ .refl s _

/-- In a tick at most `W` instructions pass each stage. -/
theorem tick_eq_finish_of_passes {s t : State} (h : tick s = .next t) :
    ∃ u, Passes s u (fun _ => s.config.issueWidth) ∧ t = u.finish := by
  obtain ⟨s₁, s₂, s₃, s₄, s₅, s₆, s₇, hC, hW, hIS, hDi, hR, hDc, hF, rfl⟩ := tick_eq_next h
  have p₀ : Passes s s.clearWires 0 := .of_recs_eq rfl rfl rfl
  have p₁ := p₀.trans (passes_commitStage hC)
  have p₂ := p₁.trans (passes_writebackStage hW)
  have p₃ := p₂.trans (passes_issueStage hIS)
  have p₄ := p₃.trans (passes_dispatchStage hDi)
  have p₅ := p₄.trans (passes_renameStage hR)
  have p₆ := p₅.trans (passes_decodeStage hDc)
  have p₇ := p₆.trans (passes_fetchStage hF)
  refine ⟨s₇, p₇.mono fun st => ?_, rfl⟩
  rw [State.clearWires_config, p₁.config, p₂.config, p₃.config, p₄.config, p₅.config, p₆.config]
  cases st <;> simp

/-! ### The invariant -/

/-- At most `W` stamps of a stage are the number of a past tick (R230), and none is the number of another. -/
def WidthKept (s : State) : Prop :=
  ∀ st v, s.widthUsed st v ≤ if v < s.currentCycle then s.config.issueWidth else 0

theorem Inv.widthKept {s : State} (hs : Inv s) : WidthKept s := by
  intro st v
  have listed : st ∈ [Stage.F, .Dc, .R, .Di, .IS, .W, .C] := by cases st <;> decide
  split
  · next hv => exact hs.timed.width st listed v hv
  · next hv =>
    rw [State.widthUsed_eq_countP, Nat.le_zero, List.countP_eq_zero]
    intro r hr hstamp
    obtain ⟨j, hj⟩ := List.mem_iff_getElem?.1 hr
    obtain ⟨past, -⟩ := hs.timed.past j (List.getElem?_eq_some_iff.1 hj).1
    exact hv (past st listed v ((State.stampOf_of_getElem? hj st).trans (beq_iff_eq.1 hstamp)))

theorem WidthKept.of_step {s t : State} (hs : WidthKept s) (h : step s = .next t) : WidthKept t := by
  obtain ⟨-, ⟨-, rfl⟩ | ⟨-, h⟩⟩ := advance_eq_next h
  · exact hs
  · obtain ⟨u, passed, rfl⟩ := tick_eq_finish_of_passes h
    intro st v
    have before := hs st v
    have within : u.finish.widthUsed st v ≤ _ := passed.width st v
    rw [State.finish_currentCycle, State.finish_config, passed.cycle, passed.config]
    obtain hv | hv | hv := Nat.lt_trichotomy v s.currentCycle
    · rw [if_pos hv] at before
      rw [if_neg hv.ne] at within
      rw [if_pos (by omega)]
      omega
    · rw [if_neg (by omega)] at before
      rw [if_pos hv] at within
      rw [if_pos (by omega)]
      omega
    · rw [if_neg hv.not_gt] at before
      rw [if_neg hv.ne'] at within
      omega

/-- Settles O48: `WidthKept` at every point of a run. -/
theorem atMostWPerStageAndTick : Obligations.AtMostWPerStageAndTick := by
  intro s t k hs h st v
  have kept := run_keeps (fun _ _ hs h => WidthKept.of_step hs h) k s t hs.widthKept h st v
  split at kept
  · exact kept
  · exact kept.trans (Nat.zero_le _)

end Sys2Proof.Machine

/-! # The binary form of a record (30_encoding.md sections 3 to 5)

A word is its four bytes and a field is what `sext8` reads, so decoding and encoding undo each other field by field; and
a register field is in range exactly when its top three bits are 0. -/

namespace Sys2Proof

/-! ### A word and its bytes -/

/-- The bits of a word, byte by byte. -/
theorem getLsbD_wordOfBytes (b0 b1 b2 b3 : Byte) (i : Nat) :
    (wordOfBytes b0 b1 b2 b3).getLsbD i =
      if i < 8 then b3.getLsbD i
      else if i < 16 then b2.getLsbD (i - 8)
      else if i < 24 then b1.getLsbD (i - 16)
      else b0.getLsbD (i - 24) := by
  rw [wordOfBytes]
  grind

@[simp] theorem kindField_wordOfBytes (b0 b1 b2 b3 : Byte) : kindField (wordOfBytes b0 b1 b2 b3) = b0 := by
  refine BitVec.eq_of_getLsbD_eq fun i hi => ?_
  simp [kindField, getLsbD_wordOfBytes, hi, show ¬ 24 + i < 8 by omega, show ¬ 24 + i < 16 by omega]

@[simp] theorem field1_wordOfBytes (b0 b1 b2 b3 : Byte) : field1 (wordOfBytes b0 b1 b2 b3) = b1 := by
  refine BitVec.eq_of_getLsbD_eq fun i hi => ?_
  simp [field1, getLsbD_wordOfBytes, hi, show ¬ 16 + i < 8 by omega, show 16 + i < 24 by omega]

@[simp] theorem field2_wordOfBytes (b0 b1 b2 b3 : Byte) : field2 (wordOfBytes b0 b1 b2 b3) = b2 := by
  refine BitVec.eq_of_getLsbD_eq fun i hi => ?_
  simp [field2, getLsbD_wordOfBytes, hi, show 8 + i < 16 by omega]

@[simp] theorem field3_wordOfBytes (b0 b1 b2 b3 : Byte) : field3 (wordOfBytes b0 b1 b2 b3) = b3 := by
  refine BitVec.eq_of_getLsbD_eq fun i hi => ?_
  simp [field3, getLsbD_wordOfBytes, hi]

/-- A word is its four bytes. -/
theorem wordOfBytes_fields (w : Word) : wordOfBytes (kindField w) (field1 w) (field2 w) (field3 w) = w := by
  refine BitVec.eq_of_getLsbD_eq fun i hi => ?_
  simp only [getLsbD_wordOfBytes, kindField, field1, field2, field3, BitVec.getLsbD_extractLsb']
  grind

/-! ### An operand and its field -/

theorem immInRange_iff {v : Int} : immInRange v = true ↔ -128 ≤ v ∧ v ≤ 127 := by
  rw [immInRange, Bool.and_eq_true, decide_eq_true_iff, decide_eq_true_iff]

theorem immInRange_of_regInRange {v : Int} (h : regInRange v = true) : immInRange v = true := by
  have := Machine.regInRange_iff.1 h
  exact immInRange_iff.2 (by omega)

theorem sext8_fieldOf {v : Int} (h : immInRange v = true) : sext8 (fieldOf v) = v := by
  have := immInRange_iff.1 h
  rw [sext8, fieldOf, BitVec.toInt_ofInt, Int.bmod_eq_of_le] <;> simp <;> omega

theorem fieldOf_sext8 (b : Byte) : fieldOf (sext8 b) = b := BitVec.ofInt_toInt

theorem immInRange_sext8 (b : Byte) : immInRange (sext8 b) = true := by
  have low := BitVec.le_toInt b
  have high := BitVec.toInt_lt (x := b)
  exact immInRange_iff.2 (by rw [sext8]; norm_num at low high; omega)

/-- A field is an architectural index exactly when its top three bits are 0. -/
theorem regInRange_sext8 (b : Byte) : regInRange (sext8 b) = true ↔ b.extractLsb' 5 3 = 0 := by
  have := b.isLt
  rw [Machine.regInRange_iff, sext8, BitVec.toInt_eq_toNat_cond, ← BitVec.toNat_inj, BitVec.extractLsb'_toNat,
    Nat.shiftRight_eq_div_pow]
  simp only [BitVec.ofNat_eq_ofNat, BitVec.toNat_ofNat]
  split <;> omega

/-! ### Decoding what was encoded -/

theorem kindCode_of_kindOfCode {c : Byte} {k : Kind} (h : kindOfCode c = some k) : kindCode k = c := by
  unfold kindOfCode at h
  split at h
  · next hc => cases h; exact hc.symm
  · split at h
    · next hc => cases h; exact hc.symm
    · split at h
      · next hc => cases h; exact hc.symm
      · split at h
        · next hc => cases h; exact hc.symm
        · cases h

/-- A record is its kind and its operands. -/
theorem Kind.record_eta (i : Instr) : i.kind.record i.op1 i.op2 i.op3 = i := by cases i <;> rfl

/-- Every operand of an encodable record fits its field. -/
theorem Instr.operands_fit {i : Instr} (hwf : i.wellFormed = true) (henc : i.encodable = true) :
    immInRange i.op1 = true ∧ immInRange i.op2 = true ∧ immInRange i.op3 = true := by
  cases i with
  | regOp a b c =>
    simp only [Instr.wellFormed, Bool.and_eq_true] at hwf
    obtain ⟨⟨ha, hb⟩, hc⟩ := hwf
    exact ⟨immInRange_of_regInRange ha, immInRange_of_regInRange hb, immInRange_of_regInRange hc⟩
  | immOp a b v =>
    simp only [Instr.wellFormed, Bool.and_eq_true] at hwf
    obtain ⟨ha, hb⟩ := hwf
    exact ⟨immInRange_of_regInRange ha, immInRange_of_regInRange hb, henc⟩
  | load a v c =>
    simp only [Instr.wellFormed, Bool.and_eq_true] at hwf
    obtain ⟨ha, hc⟩ := hwf
    exact ⟨immInRange_of_regInRange ha, henc, immInRange_of_regInRange hc⟩
  | store a v c =>
    simp only [Instr.wellFormed, Bool.and_eq_true] at hwf
    obtain ⟨ha, hc⟩ := hwf
    exact ⟨immInRange_of_regInRange ha, henc, immInRange_of_regInRange hc⟩

theorem decodeFields_encodeWord {i : Instr} (hwf : i.wellFormed = true) (henc : i.encodable = true) :
    decodeFields (encodeWord i) = some i := by
  obtain ⟨h1, h2, h3⟩ := i.operands_fit hwf henc
  refine decodeFields_eq_some.2 ⟨i.kind, ?_, ?_⟩
  · rw [encodeWord, kindField_wordOfBytes, kindOfCode_kindCode]
  · rw [encodeWord, field1_wordOfBytes, field2_wordOfBytes, field3_wordOfBytes, sext8_fieldOf h1, sext8_fieldOf h2,
      sext8_fieldOf h3, Kind.record_eta]

/-- Settles O1: the fields of an encoded record are its own kind and operands. -/
theorem decodeUndoesEncode : Obligations.DecodeUndoesEncode := by
  intro i rest hwf henc
  have word : decodeWord (encodeWord i) = .record i :=
    decodeWord_eq_record.2 ⟨decodeFields_encodeWord hwf henc, hwf⟩
  exact congrArg (·, rest) word

/-! ### Encoding what was decoded -/

/-- The operands of a decoded record are read from 8-bit fields. -/
theorem Kind.encodable_record (k : Kind) (b1 b2 b3 : Byte) :
    (k.record (sext8 b1) (sext8 b2) (sext8 b3)).encodable = true := by
  cases k with
  | R => rfl
  | I => exact immInRange_sext8 b3
  | L => exact immInRange_sext8 b2
  | S => exact immInRange_sext8 b2

/-- Settles O2: the fields of the word are those of the record that they name. -/
theorem encodeUndoesDecode : Obligations.EncodeUndoesDecode := by
  intro w i h
  obtain ⟨hfields, hwf⟩ := decodeWord_eq_record.1 h
  obtain ⟨k, hk, rfl⟩ := decodeFields_eq_some.1 hfields
  refine ⟨hwf, k.encodable_record _ _ _, ?_, ?_⟩
  · simp only [encodeWord, Kind.record_kind, Kind.record_op1, Kind.record_op2, Kind.record_op3, fieldOf_sext8,
      kindCode_of_kindOfCode hk, wordOfBytes_fields]
  · simp only [encode, bytesOfWord, Kind.record_kind, Kind.record_op1, Kind.record_op2, Kind.record_op3, fieldOf_sext8,
      kindCode_of_kindOfCode hk]

/-! ### Words that are no record -/

theorem traceOfWords_append_cons_of_unknownKind {w : Word} {c : Byte} (h : decodeWord w = .unknownKind c)
    (us vs : List Word) : traceOfWords (us ++ w :: vs) = traceOfWords (us ++ vs) := by
  induction us with
  | nil => rw [List.nil_append, List.nil_append, traceOfWords, h]
  | cons u us ih => rw [List.cons_append, List.cons_append, traceOfWords, traceOfWords, ih]

theorem traceOfWords_append_cons_of_registerOutOfRange {w : Word} {i : Instr}
    (h : decodeWord w = .registerOutOfRange i) (us vs : List Word) : traceOfWords (us ++ w :: vs) = none := by
  induction us with
  | nil => rw [List.nil_append, traceOfWords, h]
  | cons u us ih =>
    rw [List.cons_append, traceOfWords, ih]
    cases decodeWord u <;> rfl

/-- Settles O3: a code that is none of the four names no kind. -/
theorem unknownKindIsDropped : Obligations.UnknownKindIsDropped := by
  intro w hR hI hL hS
  have noKind : kindOfCode (kindField w) = none := by
    rw [kindOfCode, if_neg hR, if_neg hI, if_neg hL, if_neg hS]
  have unknown : decodeWord w = .unknownKind (kindField w) := by
    rw [decodeWord, decodeFields, noKind]
  exact ⟨unknown, traceOfWords_append_cons_of_unknownKind unknown⟩

/-! ### Register fields -/

/-- The top three bits of a byte of a word, as bits of the word. -/
theorem extractLsb'_byte (w : Word) {n m : Nat} (h : m = n + 5) :
    (w.extractLsb' n 8).extractLsb' 5 3 = w.extractLsb' m 3 := by
  refine BitVec.eq_of_getLsbD_eq fun i hi => ?_
  simp [hi, h, show 5 + i < 8 by omega, Nat.add_assoc]

theorem regInRange_field1 (w : Word) : regInRange (sext8 (field1 w)) = true ↔ w.extractLsb' 21 3 = 0 := by
  rw [regInRange_sext8, field1, extractLsb'_byte w rfl]

theorem regInRange_field2 (w : Word) : regInRange (sext8 (field2 w)) = true ↔ w.extractLsb' 13 3 = 0 := by
  rw [regInRange_sext8, field2, extractLsb'_byte w rfl]

theorem regInRange_field3 (w : Word) : regInRange (sext8 (field3 w)) = true ↔ w.extractLsb' 5 3 = 0 := by
  rw [regInRange_sext8, field3, extractLsb'_byte w rfl]

/-- The record that a word of kind `k` names, its operands not yet checked. -/
def Kind.ofWord (k : Kind) (w : Word) : Instr := k.record (sext8 (field1 w)) (sext8 (field2 w)) (sext8 (field3 w))

theorem decodeFields_of_kindField {w : Word} {k : Kind} (h : kindField w = kindCode k) :
    decodeFields w = some (k.ofWord w) :=
  decodeFields_eq_some.2 ⟨k, by rw [h, kindOfCode_kindCode], rfl⟩

theorem exists_decodeWord_eq_record {w : Word} {k : Kind} (h : kindField w = kindCode k) :
    (∃ i, decodeWord w = .record i) ↔ (k.ofWord w).wellFormed = true := by
  simp only [decodeWord_eq_record, decodeFields_of_kindField h, Option.some.injEq]
  exact ⟨fun ⟨_, hi, hwf⟩ => hi ▸ hwf, fun hwf => ⟨_, rfl, hwf⟩⟩

/-- Which bits of a word of kind `k` make its record well formed (R86). -/
theorem wellFormed_ofWord (k : Kind) (w : Word) :
    (k.ofWord w).wellFormed = true ↔ match k with
      | .R => w.extractLsb' 21 3 = 0 ∧ w.extractLsb' 13 3 = 0 ∧ w.extractLsb' 5 3 = 0
      | .I => w.extractLsb' 21 3 = 0 ∧ w.extractLsb' 13 3 = 0
      | .L => w.extractLsb' 21 3 = 0 ∧ w.extractLsb' 5 3 = 0
      | .S => w.extractLsb' 21 3 = 0 ∧ w.extractLsb' 5 3 = 0 := by
  cases k <;>
    simp only [Kind.ofWord, Kind.record, Instr.wellFormed, Bool.and_eq_true, regInRange_field1, regInRange_field2,
      regInRange_field3, and_assoc]

theorem registerOutOfRange_of_kindField {w : Word} {k : Kind} (h : kindField w = kindCode k)
    (hill : (k.ofWord w).wellFormed = false) :
    ∃ i, decodeWord w = .registerOutOfRange i ∧ i.wellFormed = false ∧
      ∀ us vs : List Word, traceOfWords (us ++ w :: vs) = none := by
  have refused := decodeWord_eq_registerOutOfRange.2 ⟨decodeFields_of_kindField h, hill⟩
  exact ⟨_, refused, hill, traceOfWords_append_cons_of_registerOutOfRange refused⟩

theorem exists_kindCode {c : Byte} (h : c ∈ ([0x52, 0x49, 0x4C, 0x53] : List Byte)) : ∃ k, c = kindCode k := by
  simp only [List.mem_cons, List.not_mem_nil, or_false] at h
  obtain h | h | h | h := h
  · exact ⟨.R, h⟩
  · exact ⟨.I, h⟩
  · exact ⟨.L, h⟩
  · exact ⟨.S, h⟩

/-- Settles O4: `wellFormed_ofWord` for each kind. -/
theorem registerFieldsAreBelow32 : Obligations.RegisterFieldsAreBelow32 := by
  intro w
  refine ⟨fun h => ?_, fun h => ?_, fun h => ?_, fun h => ?_, fun hk hbits => ?_⟩
  · exact (exists_decodeWord_eq_record (k := .R) h).trans (wellFormed_ofWord .R w)
  · exact (exists_decodeWord_eq_record (k := .I) h).trans (wellFormed_ofWord .I w)
  · exact (exists_decodeWord_eq_record (k := .L) h).trans (wellFormed_ofWord .L w)
  · exact (exists_decodeWord_eq_record (k := .S) h).trans (wellFormed_ofWord .S w)
  · obtain ⟨k, hk⟩ := exists_kindCode hk
    refine registerOutOfRange_of_kindField hk (Bool.eq_false_iff.2 fun hwf => ?_)
    have zero := (wellFormed_ofWord k w).1 hwf
    rw [hk] at hbits
    cases k with
    | R =>
      obtain ⟨h1, h2, h3⟩ := zero
      obtain h | ⟨-, h⟩ | ⟨-, h⟩ := hbits
      · exact h h1
      · exact h h2
      · exact h h3
    | I =>
      obtain ⟨h1, h2⟩ := zero
      obtain h | ⟨-, h⟩ | ⟨hlisted, -⟩ := hbits
      · exact h h1
      · exact h h2
      · exact absurd hlisted (by decide)
    | L =>
      obtain ⟨h1, h3⟩ := zero
      obtain h | ⟨hlisted, -⟩ | ⟨-, h⟩ := hbits
      · exact h h1
      · exact absurd hlisted (by decide)
      · exact h h3
    | S =>
      obtain ⟨h1, h3⟩ := zero
      obtain h | ⟨hlisted, -⟩ | ⟨-, h⟩ := hbits
      · exact h h1
      · exact absurd hlisted (by decide)
      · exact h h3

/-- Settles O5: each word evaluated. -/
theorem specWordsDecode : Obligations.SpecWordsDecode := by
  unfold Obligations.SpecWordsDecode
  decide

end Sys2Proof

/-! # One instruction at one stage, and the boundary (00_scope.md R6, 41_instruction_kinds.md R120,
70_reset_and_hazards.md)

`pass` at the stage of the cursor is the named operation of that stage, and a modified record is a set one; what `exec`
answers is then read off. -/

namespace Sys2Proof.Machine

open Sys2Proof

/-! ### The pass at the stage of the cursor -/

section
variable {s : State} (i : Instr) (ro : Roles)

theorem pass_of_stage_F (h : s.focus.stage = .F) : s.pass i ro = s.fetchOne i := by rw [State.pass, h]
theorem pass_of_stage_Dc (h : s.focus.stage = .Dc) : s.pass i ro = s.decodeOne := by rw [State.pass, h]
theorem pass_of_stage_R (h : s.focus.stage = .R) : s.pass i ro = s.renameOne ro.src1 ro.src2 ro.dst := by
  rw [State.pass, h]
theorem pass_of_stage_Di (h : s.focus.stage = .Di) : s.pass i ro = s.dispatchOne ro.waits := by rw [State.pass, h]
theorem pass_of_stage_IS (h : s.focus.stage = .IS) : s.pass i ro = s.issueOne ro.dst.producing := by
  rw [State.pass, h]
theorem pass_of_stage_W (h : s.focus.stage = .W) : s.pass i ro = s.writebackOne ro.dst.producing := by
  rw [State.pass, h]
theorem pass_of_stage_C (h : s.focus.stage = .C) : s.pass i ro = s.commitOne ro.dst.producing := by
  rw [State.pass, h]

end

/-! ### Fetch and Decode -/

/-- Settles O10: the pass at Fetch is `fetchOne`. -/
theorem fetchTakesTheRecord : Obligations.FetchTakesTheRecord := by
  intro i s hwf hst
  rw [exec_wellFormed hwf, pass_of_stage_F _ _ hst]
  rfl

/-- Settles O11: the pass at Decode is `decodeOne`, on a record that is there. -/
theorem decodeMovesTheSlot : Obligations.DecodeMovesTheSlot := by
  intro i s r hwf hst hr
  rw [exec_wellFormed hwf, pass_of_stage_Dc _ _ hst, State.decodeOne, modify_of_getElem? _ hr]
  rfl

/-! ### Rename -/

/-- The record of an instruction after its rename to register `p` in tick `c` (43_rename.md R152, R158). -/
def Record.renamedAs (r : Record) (x y : Src) (p c : Nat) : Record :=
  { r with physSrc1 := some x, physSrc2 := some y, physDst := some p, cycle := { r.cycle with R := some c } }

theorem completeRename_eq_set {s : State} {r : Record} (hr : s.recs[s.focus.handle]? = some r) (x y : Operand) (p : Nat) :
    s.completeRename x y p =
      s.recs.set s.focus.handle (r.renamedAs (x.resolve s.map) (y.resolve s.map) p s.currentCycle) :=
  modify_of_getElem? _ hr

/-- The rename of an instruction with destination operand `d`: nothing is taken for 0, else the head of the free list,
and with none free nothing changes. -/
theorem renameOne_ofReg {s : State} {r : Record} (hr : s.recs[s.focus.handle]? = some r) (x y : Operand) (d : Fin 32) :
    s.renameOne x y (.ofReg d) =
      if d = 0 then
        { s with
          recs := s.recs.set s.focus.handle (r.renamedAs (x.resolve s.map) (y.resolve s.map) 0 s.currentCycle) }
      else match s.free with
        | [] => s
        | p :: rest =>
          { s with
            recs := s.recs.set s.focus.handle (r.renamedAs (x.resolve s.map) (y.resolve s.map) p s.currentCycle)
            map := s.map.set d p
            rdy := s.rdy.set p false
            free := rest } := by
  by_cases hd : d = 0
  · rw [Dest.ofReg, if_pos hd, if_pos hd, State.renameOne, completeRename_eq_set hr]
  · rw [Dest.ofReg, if_neg hd, if_neg hd, State.renameOne]
    cases s.free with
    | nil => rfl
    | cons p rest => simp only [completeRename_eq_set hr]

theorem exec_regOp_val (d a b : Fin 32) (s : State) :
    exec (.regOp d.val a.val b.val) s =
      .next (s.pass (.regOp d.val a.val b.val) { src1 := .reg a, src2 := .reg b, dst := .ofReg d, waits := true }) := by
  simp only [exec, execRegOp, archReg_val]

theorem exec_immOp_val (d a : Fin 32) (v : Int) (s : State) :
    exec (.immOp d.val a.val v) s =
      .next (s.pass (.immOp d.val a.val v) { src1 := .reg a, src2 := .imm v, dst := .ofReg d, waits := true }) := by
  simp only [exec, execImmOp, archReg_val]

theorem exec_load_val (d b : Fin 32) (v : Int) (s : State) :
    exec (.load d.val v b.val) s =
      .next (s.pass (.load d.val v b.val) { src1 := .imm v, src2 := .reg b, dst := .ofReg d, waits := true }) := by
  simp only [exec, execLoad, archReg_val]

theorem exec_store_val (a b : Fin 32) (v : Int) (s : State) :
    exec (.store a.val v b.val) s =
      .next (s.pass (.store a.val v b.val) { src1 := .imm v, src2 := .reg b, dst := .copy a, waits := false }) := by
  simp only [exec, execStore, archReg_val]

/-- Settles O12: `renameOne_ofReg` with two register sources. -/
theorem regOpRenames : Obligations.RegOpRenames := by
  intro d a b s r hst hr
  rw [exec_regOp_val, pass_of_stage_R _ _ hst]
  exact congrArg Host.Outcome.next (renameOne_ofReg hr (.reg a) (.reg b) d)

/-- Settles O13: `renameOne_ofReg` with the immediate as second source. -/
theorem immOpRenames : Obligations.ImmOpRenames := by
  intro d a v s r hst hr
  rw [exec_immOp_val, pass_of_stage_R _ _ hst]
  exact congrArg Host.Outcome.next (renameOne_ofReg hr (.reg a) (.imm v) d)

/-- Settles O14: `renameOne_ofReg` with the immediate as first source. -/
theorem loadRenames : Obligations.LoadRenames := by
  intro d b v s r hst hr
  rw [exec_load_val, pass_of_stage_R _ _ hst]
  exact congrArg Host.Outcome.next (renameOne_ofReg hr (.imm v) (.reg b) d)

/-- Settles O15: the rename of a store completes with the copied mapping and takes nothing. -/
theorem storeRenames : Obligations.StoreRenames := by
  intro a b v s r hst hr
  rw [exec_store_val, pass_of_stage_R _ _ hst, State.renameOne, completeRename_eq_set hr]
  rfl

/-! ### Dispatch -/

theorem dispatchFlag_rolesOf (i : Instr) (x : Src) (s : State) :
    s.dispatchFlag (rolesOf i).waits (some x) = match i.kind, x with
      | .S, _ => true
      | _, .reg p => readyBit s.rdy p
      | _, .imm _ => true := by
  cases i <;> cases x <;> rfl

/-- Settles O16: the pass at Dispatch is `dispatchOne`, with the flags by kind. -/
theorem dispatchMakesTheEntries : Obligations.DispatchMakesTheEntries := by
  intro i s r hwf hst hr x y hx hy
  have src1 : (s.recs[s.focus.handle]?).bind Record.physSrc1 = some x := by rw [hr]; exact hx
  have src2 : (s.recs[s.focus.handle]?).bind Record.physSrc2 = some y := by rw [hr]; exact hy
  rw [exec_wellFormed hwf, pass_of_stage_Di _ _ hst, State.dispatchOne, modify_of_getElem? _ hr, src1, src2,
    dispatchFlag_rolesOf, dispatchFlag_rolesOf]
  rfl

/-! ### Issue, Writeback and Commit -/

/-- The own register of a renamed instruction: its destination if it is producing, none otherwise. -/
theorem ownReg_of_physDst {s : State} {h p : Nat} {r : Record} (hr : s.recs[h]? = some r) (hp : r.physDst = some p)
    (b : Bool) : s.ownReg b h = if b then [p] else [] := by
  rw [State.ownReg, State.physDstOf, hr, Option.bind_some, hp]
  rfl

/-- Settles O17: the pass at Issue is `issueOne` with the own register on the bus. -/
theorem issueSendsToWriteback : Obligations.IssueSendsToWriteback := by
  intro i s r p hwf hst hr hp
  rw [exec_wellFormed hwf, pass_of_stage_IS _ _ hst, State.issueOne, modify_of_getElem? _ hr, ownReg_of_physDst hr hp,
    rolesOf_producing hwf]
  have bne : (fun e : IQEntry => e.instrRef != s.focus.handle) = fun e => decide (e.instrRef ≠ s.focus.handle) := by
    funext e
    rw [bne, beq_eq_decide, ← decide_not]
  rw [bne]
  cases i.produces with
  | true => rfl
  | false => rw [if_neg (by decide), List.append_nil, if_neg (by decide)]; rfl

/-- Settles O18: the pass at Writeback is `writebackOne` with the own register ready and on the bus. -/
theorem writebackMarksReady : Obligations.WritebackMarksReady := by
  intro i s r p hwf hst hr hp
  rw [exec_wellFormed hwf, pass_of_stage_W _ _ hst, State.writebackOne, modify_of_getElem? _ hr, ownReg_of_physDst hr hp,
    rolesOf_producing hwf]
  cases i.produces with
  | true => rfl
  | false => rw [if_neg (by decide), List.append_nil, if_neg (by decide), if_neg (by decide)]; rfl

/-- Settles O19: the pass at Commit is `commitOne` with the own register given back. -/
theorem commitFreesTheOwnRegister : Obligations.CommitFreesTheOwnRegister := by
  intro i s r p hwf hst hr hp
  rw [exec_wellFormed hwf, pass_of_stage_C _ _ hst, State.commitOne, modify_of_getElem? _ hr, ownReg_of_physDst hr hp,
    rolesOf_producing hwf]
  cases i.produces with
  | true => rfl
  | false => rw [if_neg (by decide), List.append_nil, if_neg (by decide), if_neg (by decide)]; rfl

/-- Settles O20: a record is well formed, and then `exec` answers its pass, or it is not, and then it is refused. -/
theorem onlyIllFormedRecordsStop : Obligations.OnlyIllFormedRecordsStop :=
  fun _ s => ⟨fun hill => exec_illFormed hill s, fun hwf => ⟨_, exec_wellFormed hwf s⟩⟩

/-! ### Reset and the boundary -/

@[simp] theorem identityMap_getElem (a : Fin 32) : identityMap[a] = a.val := by
  simp [identityMap]

theorem readyBit_replicate {n p : Nat} (hp : p < n) : readyBit (List.replicate n true) p = true := by
  simp [readyBit, hp]

theorem slotAt_of_mem_latches_init {c : Config} {l : List (Option Nat)}
    (hl : l ∈ [(State.init c).latchF, (State.init c).latchDc, (State.init c).latchR, (State.init c).latchDi]) :
    l = emptyLatch c.issueWidth := by
  simpa [State.init] using hl

theorem stampOf_init (c : Config) (st : Stage) (j : Nat) : (State.init c).stampOf st j = none := by
  rw [State.stampOf, State.init, List.getElem?_map]
  cases c.trace[j]? with
  | none => rfl
  | some i => exact Stamps.get_unset st

/-- Settles O6: the reset state, field by field. -/
theorem resetGivesTheResetState : Obligations.ResetGivesTheResetState := by
  intro c s hc
  refine ⟨State.init c, resetFor_eq_next.2 ⟨hc, rfl⟩, rfl, identityMap_getElem, List.length_replicate,
    fun p hp => readyBit_replicate hp, rfl, rfl, rfl, rfl, fun l hl => ?_, rfl, rfl, rfl, rfl, List.length_map _,
    fun j hj => ?_⟩
  · rw [slotAt_of_mem_latches_init hl]
    exact ⟨length_emptyLatch _, slotAt_emptyLatch _⟩
  · refine ⟨Record.fresh c.trace[j], ?_, List.getElem?_eq_getElem hj, rfl, rfl, rfl, rfl, fun st => stampOf_init c st j⟩
    rw [State.init, List.getElem?_map, List.getElem?_eq_getElem hj, Option.map_some]

/-- A clock edge with reset and a step refuse a configuration for the same reason. -/
theorem refused_of_configRefusal {c : Config} {s : State} {r : Refusal} (h : configRefusal c = some r) :
    clockEdge (some c) s = .refused r ∧ (s.config = c → step s = .refused r) := by
  refine ⟨?_, fun hc => ?_⟩
  · rw [clockEdge, resetFor, h]
  · rw [step, advance, hc, h]

theorem Config.widthsLegal_iff {c : Config} : c.widthsLegal = true ↔ 1 ≤ c.issueWidth ∧ 32 < c.physRegCount := by
  rw [Config.widthsLegal, Bool.and_eq_true, decide_eq_true_iff, decide_eq_true_iff]
  rfl

/-- Settles O7: the widths are checked before the trace. -/
theorem illegalConfigurationsHaveNoRun : Obligations.IllegalConfigurationsHaveNoRun := by
  intro c s
  refine ⟨fun hw => refused_of_configRefusal ?_, fun hW hP ⟨i, hi, hill⟩ => refused_of_configRefusal ?_⟩
  · have narrow : c.widthsLegal = false := Bool.eq_false_iff.2 fun h => by
      have := Config.widthsLegal_iff.1 h
      omega
    rw [configRefusal, narrow]
    rfl
  · have bad : c.traceWellFormed = false := List.all_eq_false.2 ⟨i, hi, by simp [hill]⟩
    rw [configRefusal, Config.widthsLegal_iff.2 ⟨hW, hP⟩, bad]
    rfl

/-- A line of unknown kind is dropped from the records. -/
theorem filterMap_record_of_unknown {l : Line} (h : kindOfLetter l.kind = none) (us vs : List Line) :
    (us ++ l :: vs).filterMap Line.record = (us ++ vs).filterMap Line.record := by
  have dropped : l.record = none := by rw [Line.record, h]; rfl
  rw [List.filterMap_append, List.filterMap_cons_none dropped, List.filterMap_append]

/-- Settles O8: the clauses of `boot`. -/
theorem boundaryErrorsStartNoRun : Obligations.BoundaryErrorsStartNoRun := by
  refine ⟨rfl, fun _ => rfl, fun p w ls hpw => ?_, fun header us l vs hl => ?_, fun p w ls hp hw => ?_⟩
  · rw [boot, if_neg (by omega)]
  · match header with
    | none => rfl
    | some (p, w) => rw [boot, boot, filterMap_record_of_unknown hl]
  · rw [boot, if_pos ⟨hp, hw⟩]

/-- With every instruction committed a step changes nothing. -/
theorem step_of_done {s : State} (hc : s.config.legal = true) (hd : s.done = true) : step s = .next s := by
  rw [step, advance, configRefusal_eq_none.2 hc]
  exact if_pos hd

theorem run_succ_of_step_eq_next {s t : State} (h : step s = .next t) (k : Nat) :
    Host.Core.run core (k + 1) s = Host.Core.run core k t := by
  have first : core.step s = .next t := h
  simp only [Host.Core.run, first]

theorem run_of_step_eq {s : State} (h : step s = .next s) (k : Nat) : Host.Core.run core k s = .next s := by
  induction k with
  | zero => rfl
  | succ k ih =>
    rw [run_succ_of_step_eq_next h]
    exact ih

/-- Settles O9: a done state answers itself. -/
theorem doneIsFinal : Obligations.DoneIsFinal := by
  intro s hc hd
  have fixed : step s = .next s := step_of_done hc (beq_iff_eq.2 hd)
  exact ⟨fixed, fixed, run_of_step_eq fixed⟩

end Sys2Proof.Machine

/-! # What every stage keeps

One induction for each stage: a property that each handling at the stage keeps is kept by the stage. With it the frame of
the stages, the shape of the state (10_state.md sections 1 to 6), and the progress of a tick whose handles all name
records (60_exceptions.md R243). -/

namespace Sys2Proof.Machine

open Sys2Proof

/-! ### Each stage keeps what its handlings keep -/

/-- Every handling of one instruction at stage `st` keeps `P`. -/
def KeptAt (st : Stage) (P : State → Prop) : Prop := ∀ k h s t, P s → runAt st k h s = .next t → P t

section
variable {P : State → Prop} {s t : State}

theorem commitStage_keeps (hP : KeptAt .C P) (hs : P s) (h : commitStage s = .next t) : P t :=
  commitWalk_keeps (fun s _ _ t hs _ _ hr => hP _ _ s t hs hr) _ _ _ hs h

theorem writebackStage_keeps (hP : KeptAt .W P) (hs : P s) (h : writebackStage s = .next t) : P t :=
  writebackDrain_keeps (fun s _ _ t hs _ hr => hP _ _ s t hs hr) _ _ _ hs h

theorem issueStage_keeps (hP : KeptAt .IS P) (wakeup : ∀ s, P s → P s.wakeup) (hs : P s)
    (h : issueStage s = .next t) : P t := by
  obtain ⟨u, hu, ht⟩ := andThen_eq_next.1 h
  exact next_inj.1 ht ▸ wakeup u
    (issueEach_keeps (P := fun _ => P) (fun _ _ s t hs hr => hP _ _ s t hs hr) _ _ _ hs hu)

theorem dispatchStage_keeps (hP : KeptAt .Di P) (clearDi : ∀ s, P s → P s.clearDi) (hs : P s)
    (h : dispatchStage s = .next t) : P t :=
  dispatchSlots_keeps (P := fun _ => P) (fun _ _ hs _ => hs) (fun _ s _ t hs _ _ hr => hP _ _ s t hs hr) _ _ _ _
    (clearDi s hs) h

theorem renameStage_keeps (hP : KeptAt .R P) (takeGroup : ∀ s, P s → P s.takeGroup) (hs : P s)
    (h : renameStage s = .next t) : P t :=
  (renameSlots_keeps (P := fun _ => P) (Q := P) (fun _ _ hs _ => hs) (fun _ s _ t hs _ _ hr _ => hP _ _ s t hs hr)
    (fun _ s _ t hs _ _ hr _ => hP _ _ s t hs hr) _ _ _ _ (takeGroup s hs) h).elim id id

theorem decodeStage_keeps (hP : KeptAt .Dc P) (hs : P s) (h : decodeStage s = .next t) : P t := by
  unfold decodeStage at h
  split at h
  · exact decodeSlots_keeps (P := fun _ => P) (fun _ _ hs _ => hs) (fun _ s _ t hs _ hr => hP _ _ s t hs hr) _ _ _ _
      hs h
  · exact next_inj.1 h ▸ hs

theorem fetchStage_keeps
    (fetch : ∀ i k s, P s → s.config.trace[s.fetchOffset]? = some i → i.wellFormed = true →
      P ((s.focusOn .F k s.fetchOffset).fetchOne i))
    (hs : P s) (h : fetchStage s = .next t) : P t := by
  unfold fetchStage at h
  split at h
  · refine (fetchSlots_keeps (P := fun _ => P) (Q := P) (fun k s i t hs hi ht => ?_) (fun _ _ hs _ => hs) _ _ _ _
      hs h).elim id id
    obtain ⟨hwf, rfl⟩ := exec_eq_next.1 ht
    exact fetch i k s hs hi hwf
  · exact next_inj.1 h ▸ hs

end

/-- The stages before Fetch of a tick that answers a next state. -/
theorem beforeFetch_eq_next {s t : State} (h : beforeFetch s = .next t) :
    ∃ s₁ s₂ s₃ s₄ s₅,
      commitStage s.clearWires = .next s₁ ∧ writebackStage s₁ = .next s₂ ∧ issueStage s₂ = .next s₃ ∧
      dispatchStage s₃ = .next s₄ ∧ renameStage s₄ = .next s₅ ∧ decodeStage s₅ = .next t := by
  obtain ⟨s₁, h₁, h⟩ := andThen_eq_next.1 h
  obtain ⟨s₂, h₂, h⟩ := andThen_eq_next.1 h
  obtain ⟨s₃, h₃, h⟩ := andThen_eq_next.1 h
  obtain ⟨s₄, h₄, h⟩ := andThen_eq_next.1 h
  obtain ⟨s₅, h₅, h⟩ := andThen_eq_next.1 h
  exact ⟨s₁, s₂, s₃, s₄, s₅, h₁, h₂, h₃, h₄, h₅, h⟩

/-- A property that the handling of any one instruction at any stage before Fetch keeps, and the whole-stage operations
keep, is kept by the stages before Fetch. -/
theorem beforeFetch_keeps {P : State → Prop} (clearWires : ∀ s, P s → P s.clearWires)
    (wakeup : ∀ s, P s → P s.wakeup) (clearDi : ∀ s, P s → P s.clearDi) (takeGroup : ∀ s, P s → P s.takeGroup)
    (run : ∀ st, st ≠ .F → KeptAt st P) {s t : State} (hs : P s) (h : beforeFetch s = .next t) : P t := by
  obtain ⟨s₁, s₂, s₃, s₄, s₅, hC, hW, hIS, hDi, hR, hDc⟩ := beforeFetch_eq_next h
  have p₁ := commitStage_keeps (run .C (by decide)) (clearWires s hs) hC
  have p₂ := writebackStage_keeps (run .W (by decide)) p₁ hW
  have p₃ := issueStage_keeps (run .IS (by decide)) wakeup p₂ hIS
  have p₄ := dispatchStage_keeps (run .Di (by decide)) clearDi p₃ hDi
  have p₅ := renameStage_keeps (run .R (by decide)) takeGroup p₄ hR
  exact decodeStage_keeps (run .Dc (by decide)) p₅ hDc

/-! ### The writers of the tables -/

/-- `u` has the map table, the free list and the ready table of `s`. -/
def SameTables (s u : State) : Prop := u.map = s.map ∧ u.free = s.free ∧ u.rdy = s.rdy

/-- Settles O29: the handling at each stage leaves the tables alone that the stage does not write. -/
theorem tablesHaveTheirWriters : Obligations.TablesHaveTheirWriters := by
  intro s t
  have kept : ∀ st, st = .IS ∨ st = .Di ∨ st = .Dc → KeptAt st (SameTables s) := fun st hst k h u v hu hv => by
    obtain ⟨r, -, -, rfl⟩ := runAt_eq_next.1 hv
    obtain rfl | rfl | rfl := hst <;> exact hu
  have same : SameTables s s := ⟨rfl, rfl, rfl⟩
  have committed : KeptAt .C fun u => u.map = s.map := fun k h u v hu hv => by
    obtain ⟨r, -, -, rfl⟩ := runAt_eq_next.1 hv
    exact hu
  have written : KeptAt .W fun u => u.map = s.map ∧ u.free = s.free := fun k h u v hu hv => by
    obtain ⟨r, -, -, rfl⟩ := runAt_eq_next.1 hv
    exact hu
  exact ⟨commitStage_keeps committed rfl, writebackStage_keeps written ⟨rfl, rfl⟩,
    issueStage_keeps (kept .IS (by decide)) (fun _ hu => hu) same,
    dispatchStage_keeps (kept .Di (by decide)) (fun _ hu => hu) same,
    decodeStage_keeps (kept .Dc (by decide)) same,
    fetchStage_keeps (P := SameTables s) (fun _ _ _ hu _ _ => hu) same⟩

/-! ### The stages run exec of the instruction at hand -/

theorem runAt_of_getElem? {st : Stage} {k h : Nat} {s : State} {r : Record} (hr : s.recs[h]? = some r) :
    runAt st k h s = exec r.instr (s.focusOn st k h) := by
  rw [runAt, hr]

theorem renamed_of_getElem? {s : State} {h : Nat} {r : Record} (hr : s.recs[h]? = some r) :
    s.renamed h = r.cycle.R.isSome := by
  rw [State.renamed, hr]

/-- Settles O30: the clause of each loop for an instruction to handle. -/
theorem stagesRunTheDecodedInstruction : Obligations.StagesRunTheDecodedInstruction := by
  intro s n k h r hr
  have run : ∀ st j, runAt st j h s = exec r.instr (s.focusOn st j h) := fun _ _ => runAt_of_getElem? hr
  refine ⟨fun e rest hrob hready he => ?_, fun rest hq => ?_, fun e es he => ?_, fun hk hren => ?_, fun hk hpend => ?_,
    fun hk => ?_⟩
  · simp only [commitWalk, hrob, hready, if_true, he, run]
  · simp only [writebackDrain, hq, run]
  · simp only [issueEach, he, run]
  · simp only [dispatchSlots, hk, renamed_of_getElem? hr, hren, if_true, run]
  · have pending : s.renamed h = false := by rw [renamed_of_getElem? hr, hpend]; rfl
    simp only [renameSlots, hk, pending, Bool.false_eq_true, if_false, run]
  · simp only [decodeSlots, hk, run]

/-! ### A step that fetches -/

theorem beforeFetch_config {s t : State} (h : beforeFetch s = .next t) : t.config = s.config :=
  beforeFetch_keeps (P := fun u => u.config = s.config) (fun _ hu => hu) (fun _ hu => hu) (fun _ hu => hu)
    (fun u hu => u.takeGroup_config.trans hu)
    (fun _ _ _ _ _ _ hu hv => by obtain ⟨r, -, -, rfl⟩ := runAt_eq_next.1 hv; rwa [State.pass_config]) rfl h

/-- Decode empties slots of `F`, the other stages before Fetch leave it and the fetch offset alone. -/
theorem beforeFetch_latchF_empty {s t : State} (hF : ∀ k, slotAt s.latchF k = none) (h : beforeFetch s = .next t) :
    (∀ k, slotAt t.latchF k = none) ∧ t.fetchOffset = s.fetchOffset := by
  refine beforeFetch_keeps (P := fun u => (∀ k, slotAt u.latchF k = none) ∧ u.fetchOffset = s.fetchOffset)
    (fun _ hu => hu) (fun _ hu => hu) (fun _ hu => hu)
    (fun u hu => by rwa [State.takeGroup_latchF, State.takeGroup_fetchOffset])
    (fun st hst k x u v ⟨hempty, hoff⟩ hv => ?_) ⟨hF, rfl⟩ h
  obtain ⟨r, -, -, rfl⟩ := runAt_eq_next.1 hv
  cases st with
  | F => exact absurd rfl hst
  | Dc =>
    refine ⟨fun i => ?_, hoff⟩
    rw [pass_Dc, State.decodeOne_latchF, State.focusOn_latchF]
    by_cases hi : i < u.latchF.length
    · rw [slotAt_set _ _ _ hi]
      split
      · rfl
      · exact hempty i
    · exact Option.eq_none_iff_forall_ne_some.2 fun y hy => hi (by simpa using lt_length_of_slotAt hy)
  | R => exact ⟨by rwa [pass_R, State.renameOne_latchF], by rwa [pass_R, State.renameOne_fetchOffset]⟩
  | Di => exact ⟨hempty, hoff⟩
  | IS => exact ⟨hempty, hoff⟩
  | W => exact ⟨hempty, hoff⟩
  | C => exact ⟨hempty, hoff⟩

theorem latchEmpty_of_slotAt {l : List (Option Nat)} (h : ∀ k, slotAt l k = none) : latchEmpty l = true := by
  refine List.all_eq_true.2 fun x hx => ?_
  obtain ⟨k, hk⟩ := List.mem_iff_getElem?.1 hx
  have := h k
  rw [slotAt, hk] at this
  rw [show x = none from this]
  rfl

section
variable {s b : State} {i : Instr} {n : Nat} (hc : configRefusal s.config = none) (hd : s.done = false)
  (hb : beforeFetch s = .next b)
include hc hd hb

/-- A step whose Fetch finds `F` empty and a record left runs `exec` of that record in slot 0. -/
theorem step_of_fetch (hn : s.config.issueWidth = n + 1) (hF : latchEmpty b.latchF = true)
    (hi : s.config.trace[b.fetchOffset]? = some i) :
    step s = andThen (exec i (b.focusOn .F 0 b.fetchOffset)) fun u =>
      andThen (fetchSlots n 1 u) fun v => .next v.finish := by
  have config := beforeFetch_config hb
  have fetched : fetchStage b = andThen (exec i (b.focusOn .F 0 b.fetchOffset)) (fetchSlots n 1) := by
    rw [fetchStage, if_pos hF, config, hn]
    simp only [fetchSlots, config, hi]
  have ticked : step s = tick s := by
    rw [step, advance, hc]
    exact if_neg (by simp [hd])
  rw [ticked, tick, hb, andThen_next, fetched]
  cases exec i (b.focusOn .F 0 b.fetchOffset) <;> rfl

/-- With no record behind the one it fetches, the step fetches no other. -/
theorem step_of_last_fetch (hn : s.config.issueWidth = n + 1) (hF : latchEmpty b.latchF = true)
    (hi : s.config.trace[b.fetchOffset]? = some i) (hend : s.config.trace[b.fetchOffset + 1]? = none) :
    step s = andThen (exec i (b.focusOn .F 0 b.fetchOffset)) fun u => .next u.finish := by
  have config := beforeFetch_config hb
  rw [step_of_fetch hc hd hb hn hF hi]
  cases hexec : exec i (b.focusOn .F 0 b.fetchOffset) with
  | next u =>
    obtain ⟨-, rfl⟩ := exec_eq_next.1 hexec
    rw [andThen_next, andThen_next, pass_F]
    cases n with
    | zero => rfl
    | succ n =>
      have last : ((b.focusOn .F 0 b.fetchOffset).fetchOne i).config.trace[
          ((b.focusOn .F 0 b.fetchOffset).fetchOne i).fetchOffset]? = none := by
        rw [State.fetchOne_config, State.fetchOne_fetchOffset, State.focusOn_config, State.focusOn_fetchOffset, config,
          hend]
      rw [fetchSlots, last, andThen_next]
  | fault r => rfl
  | refused r => rfl

end

theorem decodeFields_of_decodeTableWord {w : Nat} {i : Instr} (h : decodeTableWord 32 w = some i) :
    decodeFields (BitVec.ofNat 32 w) = some i := by
  rw [decodeTableWord, bytesOfWord, decode, wordOfBytes_fields] at h
  split at h
  · next hj =>
    cases h
    exact (decodeWord_eq_record.1 hj).1
  · cases h

/-- Settles O31: `step_of_fetch`, and `step_of_last_fetch` for the record placed. -/
theorem stepRunsTheFetchedInstruction : Obligations.StepRunsTheFetchedInstruction := by
  refine ⟨fun s b i n hc hd hn hb hF hi => step_of_fetch hc hd hb hn hF hi, fun s b w i hw hoff hc hd hb => ?_⟩
  have trace : (s.withFetchWord 32 w).config.trace = s.config.trace.take s.fetchOffset ++ [i] := by
    rw [State.withFetchWord, decodeFields_of_decodeTableWord hw]
    rfl
  have taken : (s.config.trace.take s.fetchOffset).length = s.fetchOffset := List.length_take_of_le hoff
  obtain ⟨hempty, hoffset⟩ := beforeFetch_latchF_empty (slotAt_emptyLatch _) hb
  have hoffset : b.fetchOffset = s.fetchOffset := hoffset
  obtain ⟨n, hn⟩ : ∃ n, (s.withFetchWord 32 w).config.issueWidth = n + 1 := by
    have legal := configRefusal_eq_none.1 hc
    rw [Config.legal, Bool.and_eq_true] at legal
    exact Nat.exists_eq_add_of_le' (Config.widthsLegal_iff.1 legal.1).1
  have placed : (s.withFetchWord 32 w).config.trace[b.fetchOffset]? = some i := by
    rw [trace, hoffset, List.getElem?_append_right (by omega), taken, Nat.sub_self]
    rfl
  have last : (s.withFetchWord 32 w).config.trace[b.fetchOffset + 1]? = none := by
    rw [trace, hoffset, List.getElem?_eq_none_iff, List.length_append, taken, List.length_singleton]
  rw [step_of_last_fetch hc hd hb hn (latchEmpty_of_slotAt hempty) placed last, hoffset]

end Sys2Proof.Machine

/-! # The shape of the state, and a tick that answers (10_state.md sections 1 to 6, 60_exceptions.md R243)

`Sized` is what the shape says between the stages of a tick, with the cursor and the wires left out; `Named` says that
every handle of a queue or latch names a well-formed record, so that no handling is refused. -/

namespace Sys2Proof.Machine

open Sys2Proof

/-! ### The instructions of the records -/

theorem map_instr_set {rs : List Record} {h : Nat} {r r' : Record} (hr : rs[h]? = some r) (hi : r'.instr = r.instr) :
    (rs.set h r').map Record.instr = rs.map Record.instr := by
  obtain ⟨hlt, rfl⟩ := List.getElem?_eq_some_iff.1 hr
  rw [List.map_set, hi]
  exact List.set_getElem_self (as := rs.map Record.instr) (by simpa using hlt) ▸ by simp

/-- No handling after Fetch changes the instruction of a record. -/
theorem map_instr_of_runAt {st : Stage} {k h : Nat} {s t : State} (hst : st ≠ .F) (ht : runAt st k h s = .next t) :
    t.recs.map Record.instr = s.recs.map Record.instr := by
  obtain hrecs | ⟨r, r', hr, hrecs, handled⟩ := runAt_recs hst ht
  · rw [hrecs]
  · rw [hrecs, map_instr_set hr handled.instr]

/-- Fetch writes the record of the trace entry with the instruction it has. -/
theorem map_instr_fetchOne {i : Instr} {s : State} (hs : s.recs.map Record.instr = s.config.trace)
    (hi : s.config.trace[s.fetchOffset]? = some i) :
    (s.fetchOne i).recs.map Record.instr = s.recs.map Record.instr := by
  rw [← hs, List.getElem?_map] at hi
  obtain ⟨r, hr, rfl⟩ := Option.map_eq_some_iff.1 hi
  exact map_instr_set hr rfl

theorem runAt_config {st : Stage} {k h : Nat} {s t : State} (ht : runAt st k h s = .next t) : t.config = s.config := by
  obtain ⟨r, -, -, rfl⟩ := runAt_eq_next.1 ht
  rw [State.pass_config, State.focusOn_config]

/-! ### The shape within a tick -/

/-- The shape of 10_state.md sections 1 to 5, within a tick: all of `Shaped` but the wires and the cursor. -/
structure Sized (s : State) : Prop where
  legal : s.config.legal = true
  fromTrace : s.recs.map Record.instr = s.config.trace
  rdyLength : s.rdy.length = s.config.physRegCount
  latchFLength : s.latchF.length = s.config.issueWidth
  latchDcLength : s.latchDc.length = s.config.issueWidth
  latchRLength : s.latchR.length = s.config.issueWidth
  latchDiLength : s.latchDi.length = s.config.issueWidth

theorem Shaped.sized {s : State} (h : Shaped s) : Sized s :=
  ⟨h.legal, h.fromTrace, h.rdyLength, h.latchFLength, h.latchDcLength, h.latchRLength, h.latchDiLength⟩

/-- The sizes of the tables and latches, which no handling changes. -/
def State.sizes (s : State) : List Nat :=
  [s.rdy.length, s.latchF.length, s.latchDc.length, s.latchR.length, s.latchDi.length]

theorem sizes_renameOne (x y : Operand) (d : Dest) (s : State) : (s.renameOne x y d).sizes = s.sizes := by
  obtain ⟨-, -, h⟩ | ⟨_, _, _, -, -, h⟩ | ⟨-, h⟩ | ⟨_, -, h⟩ := renameOne_cases x y d s <;> simp [h, State.sizes]

theorem sizes_pass (i : Instr) (ro : Roles) (s : State) : (s.pass i ro).sizes = s.sizes := by
  unfold State.pass
  split
  · simp [State.sizes]
  · simp [State.sizes]
  · exact sizes_renameOne _ _ _ s
  · simp [State.sizes]
  · simp [State.sizes]
  · simp [State.sizes]
  · simp [State.sizes]

theorem Sized.of_sizes_eq {s t : State} (hs : Sized s) (hc : t.config = s.config)
    (hi : t.recs.map Record.instr = s.recs.map Record.instr) (hz : t.sizes = s.sizes) : Sized t := by
  simp only [State.sizes, List.cons.injEq, and_true] at hz
  obtain ⟨hrdy, hF, hDc, hR, hDi⟩ := hz
  exact ⟨hc ▸ hs.legal, hi.trans (hc ▸ hs.fromTrace), hrdy.trans (hc ▸ hs.rdyLength), hF.trans (hc ▸ hs.latchFLength),
    hDc.trans (hc ▸ hs.latchDcLength), hR.trans (hc ▸ hs.latchRLength), hDi.trans (hc ▸ hs.latchDiLength)⟩

theorem Sized.of_runAt {st : Stage} {k h : Nat} {s t : State} (hst : st ≠ .F) (hs : Sized s)
    (ht : runAt st k h s = .next t) : Sized t := by
  refine hs.of_sizes_eq (runAt_config ht) (map_instr_of_runAt hst ht) ?_
  obtain ⟨r, -, -, rfl⟩ := runAt_eq_next.1 ht
  exact sizes_pass _ _ _

theorem Sized.fetchOne {s : State} {i : Instr} (k h : Nat) (hs : Sized s)
    (hi : s.config.trace[s.fetchOffset]? = some i) : Sized ((s.focusOn .F k h).fetchOne i) :=
  hs.of_sizes_eq rfl (map_instr_fetchOne (s := s.focusOn .F k h) hs.fromTrace hi) (by simp [State.sizes])

theorem Sized.clearWires {s : State} (hs : Sized s) : Sized s.clearWires := hs.of_sizes_eq rfl rfl rfl
theorem Sized.wakeup {s : State} (hs : Sized s) : Sized s.wakeup := hs.of_sizes_eq rfl rfl rfl
theorem Sized.clearDi {s : State} (hs : Sized s) : Sized s.clearDi :=
  { hs with latchDiLength := length_emptyLatch _ }
theorem Sized.finish {s : State} (hs : Sized s) : Sized s.finish := hs.of_sizes_eq rfl rfl rfl

theorem Sized.takeGroup {s : State} (hs : Sized s) : Sized s.takeGroup := by
  unfold State.takeGroup
  split
  · exact { hs with latchDcLength := length_emptyLatch _, latchRLength := hs.latchDcLength }
  · exact hs

theorem Sized.tick {s t : State} (hs : Sized s) (h : tick s = .next t) : Sized t :=
  tick_keeps (P := Sized) (fun _ => Sized.clearWires) (fun _ => Sized.finish) (fun _ => Sized.wakeup)
    (fun _ => Sized.clearDi) (fun _ => Sized.takeGroup) (fun _ _ _ _ _ hst hs ht => hs.of_runAt hst ht)
    (fun i k s t hs hi ht => by obtain ⟨-, rfl⟩ := exec_eq_next.1 ht; exact hs.fetchOne k _ hi) hs h

/-- A sized state at rest is shaped: the end of a tick empties the wires and puts the cursor at rest. -/
theorem Sized.shaped_finish {s : State} (hs : Sized s.finish) : Shaped s.finish where
  legal := hs.legal
  fromTrace := hs.fromTrace
  rdyLength := hs.rdyLength
  latchFLength := hs.latchFLength
  latchDcLength := hs.latchDcLength
  latchRLength := hs.latchRLength
  latchDiLength := hs.latchDiLength
  noWbTags := rfl
  noIsTags := rfl
  atRest := rfl

theorem Shaped.of_step {s t : State} (hs : Shaped s) (h : step s = .next t) : Shaped t := by
  obtain ⟨-, ⟨-, rfl⟩ | ⟨-, h⟩⟩ := advance_eq_next h
  · exact hs
  · have sized := hs.sized.tick h
    obtain ⟨u, -, rfl⟩ := tick_eq_finish_of_oneCycle h
    exact sized.shaped_finish

/-- Settles O38: `Sized` through the tick, and `finish` at its end. -/
theorem stepKeepsTheShape : Obligations.StepKeepsTheShape := fun _ _ hs h => hs.of_step h

/-! ### What never changes and what never goes down -/

/-- `u` has the configuration and the instructions of `s`, and no counter of it is lower. -/
structure Onward (s u : State) : Prop where
  config : u.config = s.config
  instrs : u.recs.map Record.instr = s.config.trace
  cycle : s.currentCycle ≤ u.currentCycle
  fetchOffset : s.fetchOffset ≤ u.fetchOffset
  ageCounter : s.iqAgeCounter ≤ u.iqAgeCounter
  completed : s.completedCount ≤ u.completedCount

/-- No handling lowers a counter. -/
theorem counters_le_pass (i : Instr) (ro : Roles) (s : State) :
    s.fetchOffset ≤ (s.pass i ro).fetchOffset ∧ s.iqAgeCounter ≤ (s.pass i ro).iqAgeCounter ∧
      s.completedCount ≤ (s.pass i ro).completedCount := by
  unfold State.pass
  split <;> simp

theorem Onward.of_pass {s u v : State} (hu : Onward s u) (hi : v.recs.map Record.instr = u.recs.map Record.instr)
    {i : Instr} {ro : Roles} {st : Stage} {k h : Nat} (hv : v = (u.focusOn st k h).pass i ro) : Onward s v := by
  subst hv
  obtain ⟨hoff, hage, hdone⟩ := counters_le_pass i ro (u.focusOn st k h)
  exact ⟨by rw [State.pass_config]; exact hu.config, hi.trans hu.instrs,
    by rw [State.pass_currentCycle]; exact hu.cycle, hu.fetchOffset.trans hoff, hu.ageCounter.trans hage,
    hu.completed.trans hdone⟩

theorem Onward.tick {s t : State} (hs : s.recs.map Record.instr = s.config.trace) (h : tick s = .next t) :
    Onward s t := by
  refine tick_keeps (P := Onward s)
    (fun u hu => ⟨hu.config, hu.instrs, hu.cycle, hu.fetchOffset, hu.ageCounter, hu.completed⟩)
    (fun u hu => ⟨hu.config, hu.instrs, hu.cycle.trans (Nat.le_succ _), hu.fetchOffset, hu.ageCounter, hu.completed⟩)
    (fun u hu => ⟨hu.config, hu.instrs, hu.cycle, hu.fetchOffset, hu.ageCounter, hu.completed⟩)
    (fun u hu => ⟨hu.config, hu.instrs, hu.cycle, hu.fetchOffset, hu.ageCounter, hu.completed⟩)
    (fun u hu => ⟨by simpa using hu.config, by simpa using hu.instrs, by simpa using hu.cycle,
      by simpa using hu.fetchOffset, by simpa using hu.ageCounter, by simpa using hu.completed⟩)
    (fun st k x u v hst hu hv => ?_) (fun i k u v hu hi hv => ?_)
    ⟨rfl, hs, le_rfl, le_rfl, le_rfl, le_rfl⟩ h
  · have instrs := map_instr_of_runAt hst hv
    obtain ⟨r, -, -, hv⟩ := runAt_eq_next.1 hv
    exact hu.of_pass instrs hv
  · obtain ⟨-, hv⟩ := exec_eq_next.1 hv
    have fromTrace : u.recs.map Record.instr = u.config.trace := hu.instrs.trans (by rw [hu.config])
    have instrs : v.recs.map Record.instr = u.recs.map Record.instr := by
      rw [hv, pass_F]
      exact map_instr_fetchOne (s := u.focusOn .F k u.fetchOffset) fromTrace hi
    exact hu.of_pass instrs hv

/-- Settles O33: `Onward` through the tick. -/
theorem configurationIsImmutable : Obligations.ConfigurationIsImmutable := by
  intro s t hs h
  obtain ⟨-, ⟨-, rfl⟩ | ⟨-, h⟩⟩ := advance_eq_next h
  · exact ⟨rfl, hs, le_rfl, le_rfl, le_rfl, le_rfl⟩
  · have onward := Onward.tick hs h
    exact ⟨onward.config, onward.instrs, onward.cycle, onward.fetchOffset, onward.ageCounter, onward.completed⟩

/-! ### A tick whose handles name records -/

/-- Every handle of a queue or latch is below `n`. -/
structure HandlesBelow (n : Nat) (s : State) : Prop where
  rob : ∀ e ∈ s.rob, e.instrRef < n
  iq : ∀ e ∈ s.iq, e.instrRef < n
  wbq : ∀ h ∈ s.wbq, h < n
  latchF : ∀ h ∈ occupied s.latchF, h < n
  latchDc : ∀ h ∈ occupied s.latchDc, h < n
  latchR : ∀ h ∈ occupied s.latchR, h < n

theorem mem_occupied_set {l : List (Option Nat)} {k y : Nat} {x : Option Nat} (hy : y ∈ occupied (l.set k x)) :
    y ∈ occupied l ∨ x = some y := by
  rw [occupied, List.reduceOption_mem_iff] at hy ⊢
  exact (List.mem_or_eq_of_mem_set hy).imp_right Eq.symm

@[simp] theorem occupied_emptyLatch (w : Nat) : occupied (emptyLatch w) = [] :=
  List.eq_nil_iff_forall_not_mem.2 fun x hx => by
    obtain ⟨k, hk⟩ := mem_occupied.1 hx
    simp at hk

section
variable {n h : Nat} {s : State}

theorem occupied_set_lt {l : List (Option Nat)} (hl : ∀ y ∈ occupied l, y < n) (k : Nat) {x : Option Nat}
    (hx : ∀ y, x = some y → y < n) : ∀ y ∈ occupied (l.set k x), y < n :=
  fun y hy => (mem_occupied_set hy).elim (hl y) (hx y)

theorem mem_markReady_instrRef {x : Nat} {rob : List ROBEntry} {e : ROBEntry} (he : e ∈ markReady x rob) :
    ∃ e' ∈ rob, e.instrRef = e'.instrRef := by
  obtain ⟨e', he', rfl⟩ := List.mem_map.1 he
  refine ⟨e', he', ?_⟩
  split <;> rfl

@[simp] theorem wakeEntry_instrRef (rs : List Record) (tags : List Nat) (e : IQEntry) :
    (wakeEntry rs tags e).instrRef = e.instrRef := by
  unfold wakeEntry
  split <;> rfl

/-- The handling of a handle below `n` at a stage after Fetch. -/
theorem HandlesBelow.pass (hs : HandlesBelow n s) (hh : h < n) {st : Stage} (hst : st ≠ .F) (k : Nat) (i : Instr)
    (ro : Roles) : HandlesBelow n ((s.focusOn st k h).pass i ro) := by
  have own : ∀ y, some h = some y → y < n := fun y hy => Option.some.inj hy ▸ hh
  have empty : ∀ y, none = some y → y < n := nofun
  cases st with
  | F => exact absurd rfl hst
  | Dc => exact { hs with
      latchDc := occupied_set_lt hs.latchDc k own
      latchF := occupied_set_lt hs.latchF k empty }
  | R =>
    rw [pass_R]
    exact
      { rob := by simpa using hs.rob
        iq := by simpa using hs.iq
        wbq := by simpa using hs.wbq
        latchF := by simpa using hs.latchF
        latchDc := by simpa using hs.latchDc
        latchR := by simpa using hs.latchR }
  | Di => exact { hs with
      rob := fun e he => (List.mem_append.1 he).elim (hs.rob e) fun he => List.mem_singleton.1 he ▸ hh
      iq := fun e he => (List.mem_append.1 he).elim (hs.iq e) fun he => List.mem_singleton.1 he ▸ hh
      latchR := occupied_set_lt hs.latchR k empty }
  | IS => exact { hs with
      iq := fun e he => hs.iq e (List.mem_of_mem_filter he)
      wbq := fun x hx => (List.mem_append.1 hx).elim (hs.wbq x) fun hx => List.mem_singleton.1 hx ▸ hh }
  | W => exact { hs with
      wbq := fun x hx => hs.wbq x (List.mem_of_mem_tail hx)
      rob := fun e he => by
        obtain ⟨e', he', href⟩ := mem_markReady_instrRef he
        exact href ▸ hs.rob e' he' }
  | C => exact { hs with rob := fun e he => hs.rob e (List.mem_of_mem_tail he) }

theorem HandlesBelow.fetchOne (hs : HandlesBelow n s) (hoff : s.fetchOffset < n) (i : Instr) :
    HandlesBelow n (s.fetchOne i) :=
  { hs with latchF := occupied_set_lt hs.latchF _ fun _ hy => Option.some.inj hy ▸ hoff }

theorem HandlesBelow.wakeup (hs : HandlesBelow n s) : HandlesBelow n s.wakeup :=
  { hs with
    iq := fun e he => by
      obtain ⟨e', he', rfl⟩ := List.mem_map.1 he
      exact wakeEntry_instrRef _ _ e' ▸ hs.iq e' he' }

theorem HandlesBelow.takeGroup (hs : HandlesBelow n s) : HandlesBelow n s.takeGroup := by
  unfold State.takeGroup
  split
  · exact { hs with latchR := hs.latchDc, latchDc := by simp }
  · exact hs

end

/-- Every handle of a queue or latch names a record (10_state.md R38), and the records are those of a well-formed
trace. -/
structure Named (s : State) : Prop where
  trace : ∀ i ∈ s.config.trace, i.wellFormed = true
  fromTrace : s.recs.map Record.instr = s.config.trace
  handles : HandlesBelow s.count s

theorem count_eq_of_map_instr {s t : State} (h : t.recs.map Record.instr = s.recs.map Record.instr) :
    t.count = s.count := by
  simpa using congrArg List.length h

section
variable {s t : State} (hs : Named s)
include hs

theorem Named.runAt_answers (st : Stage) (k : Nat) {h : Nat} (hh : h < s.count) : ∃ t, runAt st k h s = .next t := by
  have inTrace : s.recs[h].instr ∈ s.config.trace := hs.fromTrace ▸ List.mem_map_of_mem (List.getElem_mem hh)
  exact ⟨_, runAt_eq_next.2 ⟨_, List.getElem?_eq_getElem hh, hs.trace _ inTrace, rfl⟩⟩

theorem Named.of_runAt {st : Stage} {k h : Nat} (hst : st ≠ .F) (ht : runAt st k h s = .next t) : Named t := by
  have config := runAt_config ht
  have instrs := map_instr_of_runAt hst ht
  refine ⟨config ▸ hs.trace, instrs.trans (config ▸ hs.fromTrace), count_eq_of_map_instr instrs ▸ ?_⟩
  obtain ⟨r, hr, -, rfl⟩ := runAt_eq_next.1 ht
  exact hs.handles.pass (List.getElem?_eq_some_iff.1 hr).1 hst k _ _

theorem Named.fetchOne {i : Instr} (hi : s.config.trace[s.fetchOffset]? = some i) (k h : Nat) :
    Named ((s.focusOn .F k h).fetchOne i) := by
  have instrs := map_instr_fetchOne (s := s.focusOn .F k h) hs.fromTrace hi
  have inTable : s.fetchOffset < s.count := by
    have := (List.getElem?_eq_some_iff.1 hi).1
    rwa [← hs.fromTrace, List.length_map] at this
  exact ⟨hs.trace, instrs.trans hs.fromTrace, count_eq_of_map_instr instrs ▸
    HandlesBelow.fetchOne (s := s.focusOn .F k h) { hs.handles with } inTable i⟩

/-! ### Each stage answers -/

theorem Named.commitWalk_answers (n : Nat) : ∃ t, commitWalk n s = .next t := by
  induction n generalizing s with
  | zero => exact ⟨s, rfl⟩
  | succ n ih =>
    rw [commitWalk]
    split
    · exact ⟨s, rfl⟩
    · next e rest hrob =>
      split
      · obtain ⟨u, hu⟩ := hs.runAt_answers .C 0 (hs.handles.rob e (hrob ▸ List.mem_cons_self))
        obtain ⟨t, ht⟩ := ih (hs.of_runAt (by decide) hu)
        exact ⟨t, andThen_eq_next.2 ⟨u, hu, ht⟩⟩
      · exact ⟨s, rfl⟩

theorem Named.writebackDrain_answers (n : Nat) : ∃ t, writebackDrain n s = .next t := by
  induction n generalizing s with
  | zero => exact ⟨s, rfl⟩
  | succ n ih =>
    rw [writebackDrain]
    split
    · exact ⟨s, rfl⟩
    · next h rest hq =>
      obtain ⟨u, hu⟩ := hs.runAt_answers .W 0 (hs.handles.wbq h (hq ▸ List.mem_cons_self))
      obtain ⟨t, ht⟩ := ih (hs.of_runAt (by decide) hu)
      exact ⟨t, andThen_eq_next.2 ⟨u, hu, ht⟩⟩

theorem Named.issueEach_answers {es : List IQEntry} (hes : ∀ e ∈ es, e.instrRef < s.count) :
    ∃ t, issueEach es s = .next t := by
  induction es generalizing s with
  | nil => exact ⟨s, rfl⟩
  | cons e es ih =>
    obtain ⟨u, hu⟩ := hs.runAt_answers .IS 0 (hes e List.mem_cons_self)
    have count := count_eq_of_map_instr (map_instr_of_runAt (by decide) hu)
    obtain ⟨t, ht⟩ := ih (hs.of_runAt (by decide) hu) fun x hx => count ▸ hes x (List.mem_cons_of_mem e hx)
    exact ⟨t, andThen_eq_next.2 ⟨u, hu, ht⟩⟩

theorem Named.issueStage_answers : ∃ t, issueStage s = .next t := by
  obtain ⟨u, hu⟩ := hs.issueEach_answers fun e he => hs.handles.iq e (State.mem_iq_of_mem_selected he).1
  exact ⟨u.wakeup, andThen_eq_next.2 ⟨u, hu, rfl⟩⟩

theorem Named.dispatchSlots_answers (n k : Nat) : ∃ t, dispatchSlots n k s = .next t := by
  induction n generalizing k s with
  | zero => exact ⟨s, rfl⟩
  | succ n ih =>
    rw [dispatchSlots]
    split
    · exact ih hs (k + 1)
    · next h hk =>
      split
      · obtain ⟨u, hu⟩ := hs.runAt_answers .Di k (hs.handles.latchR h (mem_occupied.2 ⟨k, hk⟩))
        obtain ⟨t, ht⟩ := ih (hs.of_runAt (by decide) hu) (k + 1)
        exact ⟨t, andThen_eq_next.2 ⟨u, hu, ht⟩⟩
      · exact ih hs (k + 1)

theorem Named.renameSlots_answers (n k : Nat) : ∃ t, renameSlots n k s = .next t := by
  induction n generalizing k s with
  | zero => exact ⟨s, rfl⟩
  | succ n ih =>
    rw [renameSlots]
    split
    · exact ih hs (k + 1)
    · next h hk =>
      split
      · exact ih hs (k + 1)
      · obtain ⟨u, hu⟩ := hs.runAt_answers .R k (hs.handles.latchR h (mem_occupied.2 ⟨k, hk⟩))
        obtain ⟨t, ht⟩ := ih (hs.of_runAt (by decide) hu) (k + 1)
        by_cases hr : u.renamed h = true
        · exact ⟨t, andThen_eq_next.2 ⟨u, hu, by rw [if_pos hr, ht]⟩⟩
        · exact ⟨u, andThen_eq_next.2 ⟨u, hu, if_neg hr⟩⟩

theorem Named.decodeSlots_answers (n k : Nat) : ∃ t, decodeSlots n k s = .next t := by
  induction n generalizing k s with
  | zero => exact ⟨s, rfl⟩
  | succ n ih =>
    rw [decodeSlots]
    split
    · exact ih hs (k + 1)
    · next h hk =>
      obtain ⟨u, hu⟩ := hs.runAt_answers .Dc k (hs.handles.latchF h (mem_occupied.2 ⟨k, hk⟩))
      obtain ⟨t, ht⟩ := ih (hs.of_runAt (by decide) hu) (k + 1)
      exact ⟨t, andThen_eq_next.2 ⟨u, hu, ht⟩⟩

theorem Named.fetchSlots_answers (n k : Nat) : ∃ t, fetchSlots n k s = .next t := by
  induction n generalizing k s with
  | zero => exact ⟨s, rfl⟩
  | succ n ih =>
    rw [fetchSlots]
    split
    · exact ⟨s, rfl⟩
    · next i hi =>
      obtain ⟨t, ht⟩ := ih (hs.fetchOne hi k s.fetchOffset) (k + 1)
      exact ⟨t, andThen_eq_next.2 ⟨_, exec_wellFormed (hs.trace i (List.mem_of_getElem? hi)) _, ht⟩⟩

theorem Named.decodeStage_answers : ∃ t, decodeStage s = .next t := by
  unfold decodeStage
  split
  · exact hs.decodeSlots_answers _ _
  · exact ⟨s, rfl⟩

theorem Named.fetchStage_answers : ∃ t, fetchStage s = .next t := by
  unfold fetchStage
  split
  · exact hs.fetchSlots_answers _ _
  · exact ⟨s, rfl⟩

theorem Named.clearDi : Named s.clearDi := ⟨hs.trace, hs.fromTrace, { hs.handles with }⟩
theorem Named.clearWires : Named s.clearWires := ⟨hs.trace, hs.fromTrace, { hs.handles with }⟩
theorem Named.wakeup : Named s.wakeup := ⟨hs.trace, hs.fromTrace, hs.handles.wakeup⟩
theorem Named.takeGroup : Named s.takeGroup :=
  ⟨by simpa using hs.trace, by simpa using hs.fromTrace, by simpa [State.count] using hs.handles.takeGroup⟩

/-- A tick whose handles all name records answers a next state. -/
theorem Named.tick_answers : ∃ t, tick s = .next t := by
  have kept : ∀ st, st ≠ .F → KeptAt st Named := fun st hst k h u v hu hv => hu.of_runAt hst hv
  obtain ⟨s₁, hC⟩ := hs.clearWires.commitWalk_answers s.clearWires.config.issueWidth
  have n₁ := commitStage_keeps (kept .C (by decide)) hs.clearWires hC
  obtain ⟨s₂, hW⟩ := n₁.writebackDrain_answers s₁.config.issueWidth
  have n₂ := writebackStage_keeps (kept .W (by decide)) n₁ hW
  obtain ⟨s₃, hIS⟩ := n₂.issueStage_answers
  have n₃ := issueStage_keeps (kept .IS (by decide)) (fun _ hu => hu.wakeup) n₂ hIS
  obtain ⟨s₄, hDi⟩ := n₃.clearDi.dispatchSlots_answers s₃.config.issueWidth 0
  have n₄ := dispatchStage_keeps (kept .Di (by decide)) (fun _ hu => hu.clearDi) n₃ hDi
  obtain ⟨s₅, hR⟩ := n₄.takeGroup.renameSlots_answers s₄.config.issueWidth 0
  have n₅ := renameStage_keeps (kept .R (by decide)) (fun _ hu => hu.takeGroup) n₄ hR
  obtain ⟨s₆, hDc⟩ := n₅.decodeStage_answers
  have n₆ := decodeStage_keeps (kept .Dc (by decide)) n₅ hDc
  obtain ⟨s₇, hF⟩ := n₆.fetchStage_answers
  have before : beforeFetch s = .next s₆ :=
    andThen_eq_next.2 ⟨s₁, hC, andThen_eq_next.2 ⟨s₂, hW, andThen_eq_next.2 ⟨s₃, hIS, andThen_eq_next.2 ⟨s₄, hDi,
      andThen_eq_next.2 ⟨s₅, hR, hDc⟩⟩⟩⟩⟩
  exact ⟨s₇.finish, andThen_eq_next.2 ⟨s₆, before, andThen_eq_next.2 ⟨s₇, hF, rfl⟩⟩⟩

end

/-! ### Ordered states -/

theorem Sized.trace_wellFormed {s : State} (hs : Sized s) : ∀ i ∈ s.config.trace, i.wellFormed = true := by
  have legal := hs.legal
  rw [Config.legal, Bool.and_eq_true] at legal
  exact List.all_eq_true.1 legal.2

/-- In an ordered state every handle names a record. -/
theorem Ordered.named {s : State} (hsize : Sized s) (hs : Ordered s) : Named s := by
  obtain ⟨hcommitted, hdispatched, hfetched⟩ := hs.counters
  have inLatches : ∀ h ∈ occupied s.latchR ++ occupied s.latchDc ++ occupied s.latchF, h < s.count := fun h hh => by
    have := List.mem_range'_1.1 (hs.latches.1 ▸ hh)
    omega
  refine ⟨hsize.trace_wellFormed, hsize.fromTrace,
    ⟨fun e he => ?_, hs.handles.1, hs.handles.2, fun h hh => ?_, fun h hh => ?_, fun h hh => ?_⟩⟩
  · have := List.mem_range'_1.1 (hs.rob.1 ▸ List.mem_map_of_mem (f := ROBEntry.instrRef) he)
    omega
  · exact inLatches h (List.mem_append_right _ hh)
  · exact inLatches h (List.mem_append_left _ (List.mem_append_right _ hh))
  · exact inLatches h (List.mem_append_left _ (List.mem_append_left _ hh))

/-- Settles O39: the handles of an ordered state name records. -/
theorem orderedStatesNeverStop : Obligations.OrderedStatesNeverStop := by
  intro s hshape hs
  by_cases hd : s.done = true
  · exact ⟨s, step_of_done hshape.legal hd⟩
  · obtain ⟨t, ht⟩ := (hs.named hshape.sized).tick_answers
    refine ⟨t, ?_⟩
    rw [step, advance, configRefusal_eq_none.2 hshape.legal]
    exact (if_neg hd).trans ht

end Sys2Proof.Machine

/-! # The hang (70_reset_and_hazards.md R266)

A stage that leaves what it would move as it was has handled nothing, or has stalled; and then it does the same under any
other cycle number. So a tick that only counts is repeated. -/

namespace Sys2Proof.Machine

open Sys2Proof

/-! ### The frames of the stages -/

/-- What Commit writes. -/
def CommitFrame (s t : State) : Prop :=
  t = { s with
    recs := t.recs, free := t.free, rdy := t.rdy, rob := t.rob, completedCount := t.completedCount, focus := t.focus }

/-- What Writeback writes. -/
def WritebackFrame (s t : State) : Prop :=
  t = { s with recs := t.recs, wbq := t.wbq, rob := t.rob, rdy := t.rdy, wbTags := t.wbTags, focus := t.focus }

/-- What Issue writes. -/
def IssueFrame (s t : State) : Prop :=
  t = { s with recs := t.recs, iq := t.iq, wbq := t.wbq, isTags := t.isTags, focus := t.focus }

/-- What Dispatch writes. -/
def DispatchFrame (s t : State) : Prop :=
  t = { s with
    recs := t.recs, iq := t.iq, rob := t.rob, iqAgeCounter := t.iqAgeCounter, latchDi := t.latchDi, latchR := t.latchR
    focus := t.focus }

/-- What Rename writes. -/
def RenameFrame (s t : State) : Prop :=
  t = { s with
    recs := t.recs, map := t.map, rdy := t.rdy, free := t.free, latchR := t.latchR, latchDc := t.latchDc
    focus := t.focus }

/-- What Decode writes. -/
def DecodeFrame (s t : State) : Prop :=
  t = { s with recs := t.recs, latchDc := t.latchDc, latchF := t.latchF, focus := t.focus }

/-- What Fetch writes. -/
def FetchFrame (s t : State) : Prop :=
  t = { s with recs := t.recs, latchF := t.latchF, fetchOffset := t.fetchOffset, focus := t.focus }

section
variable {s t : State}

theorem commitStage_frame (h : commitStage s = .next t) : CommitFrame s t := by
  refine commitStage_keeps (P := CommitFrame s) (fun k x u v hu hv => ?_) (show CommitFrame s s from rfl) h
  obtain ⟨r, -, -, rfl⟩ := runAt_eq_next.1 hv
  obtain ⟨⟩ := u
  injection hu
  subst_vars
  rfl

theorem writebackStage_frame (h : writebackStage s = .next t) : WritebackFrame s t := by
  refine writebackStage_keeps (P := WritebackFrame s) (fun k x u v hu hv => ?_) (show WritebackFrame s s from rfl) h
  obtain ⟨r, -, -, rfl⟩ := runAt_eq_next.1 hv
  obtain ⟨⟩ := u
  injection hu
  subst_vars
  rfl

theorem issueStage_frame (h : issueStage s = .next t) : IssueFrame s t := by
  refine issueStage_keeps (P := IssueFrame s) (fun k x u v hu hv => ?_) (fun u hu => ?_)
    (show IssueFrame s s from rfl) h
  · obtain ⟨r, -, -, rfl⟩ := runAt_eq_next.1 hv
    obtain ⟨⟩ := u
    injection hu
    subst_vars
    rfl
  · obtain ⟨⟩ := u
    injection hu
    subst_vars
    rfl

theorem dispatchStage_frame (h : dispatchStage s = .next t) : DispatchFrame s t := by
  refine dispatchStage_keeps (P := DispatchFrame s) (fun k x u v hu hv => ?_) (fun u hu => ?_)
    (show DispatchFrame s s from rfl) h
  · obtain ⟨r, -, -, rfl⟩ := runAt_eq_next.1 hv
    obtain ⟨⟩ := u
    injection hu
    subst_vars
    rfl
  · obtain ⟨⟩ := u
    injection hu
    subst_vars
    rfl

theorem decodeStage_frame (h : decodeStage s = .next t) : DecodeFrame s t := by
  refine decodeStage_keeps (P := DecodeFrame s) (fun k x u v hu hv => ?_) (show DecodeFrame s s from rfl) h
  obtain ⟨r, -, -, rfl⟩ := runAt_eq_next.1 hv
  obtain ⟨⟩ := u
  injection hu
  subst_vars
  rfl

theorem fetchStage_frame (h : fetchStage s = .next t) : FetchFrame s t := by
  refine fetchStage_keeps (P := FetchFrame s) (fun i k u hu _ _ => ?_) (show FetchFrame s s from rfl) h
  obtain ⟨⟩ := u
  injection hu
  subst_vars
  rfl

/-! ### The rename of one slot -/

/-- The record of a renamed instruction: its sources by the map of `s`, its destination `p`, the stamp. -/
def State.renamedRecord (s : State) (r : Record) (p : Nat) : Record :=
  r.renamedAs ((rolesOf r.instr).src1.resolve s.map) ((rolesOf r.instr).src2.resolve s.map) p s.currentCycle

/-- All that the rename of one slot can do: stall for want of a register, take the head of the free list, or complete
without a register. -/
theorem runAt_R_cases {k h : Nat} (ht : runAt .R k h s = .next t) :
    ∃ r, s.recs[h]? = some r ∧ r.instr.wellFormed = true ∧
      ((r.instr.produces = true ∧ s.free = [] ∧ t = s.focusOn .R k h) ∨
       (∃ d p rest, (rolesOf r.instr).dst = .alloc d ∧ s.free = p :: rest ∧
          t = { s.focusOn .R k h with
            recs := s.recs.set h (s.renamedRecord r p), map := s.map.set d p, rdy := s.rdy.set p false, free := rest }) ∨
       ∃ p, r.instr.produces = false ∧ t = { s.focusOn .R k h with recs := s.recs.set h (s.renamedRecord r p) }) := by
  obtain ⟨r, hr, hwf, rfl⟩ := runAt_eq_next.1 ht
  have completes : ∀ p, (s.focusOn .R k h).completeRename (rolesOf r.instr).src1 (rolesOf r.instr).src2 p =
      s.recs.set h (s.renamedRecord r p) := fun p => completeRename_eq_set (s := s.focusOn .R k h) hr _ _ p
  refine ⟨r, hr, hwf, ?_⟩
  rw [pass_R, ← rolesOf_producing hwf]
  obtain ⟨hp, hf, hu⟩ | ⟨d, p, rest, hd, hf, hu⟩ | ⟨hd, hu⟩ | ⟨a, hd, hu⟩ :=
    renameOne_cases (rolesOf r.instr).src1 (rolesOf r.instr).src2 (rolesOf r.instr).dst (s.focusOn .R k h)
  · exact .inl ⟨hp, hf, hu⟩
  · exact .inr (.inl ⟨d, p, rest, hd, hf, by rw [hu, completes]; rfl⟩)
  · exact .inr (.inr ⟨0, by rw [hd]; rfl, by rw [hu, completes]⟩)
  · exact .inr (.inr ⟨_, by rw [hd]; rfl, by rw [hu, completes]⟩)

theorem renameStage_frame (h : renameStage s = .next t) : RenameFrame s t := by
  refine renameStage_keeps (P := RenameFrame s) (fun k x u v hu hv => ?_) (fun u hu => ?_)
    (show RenameFrame s s from rfl) h
  · obtain ⟨r, -, -, ⟨-, -, rfl⟩ | ⟨d, p, rest, -, -, rfl⟩ | ⟨p, -, rfl⟩⟩ := runAt_R_cases hv <;>
    · obtain ⟨⟩ := u
      injection hu
      subst_vars
      rfl
  · obtain ⟨⟩ := u
    injection hu
    subst_vars
    unfold State.takeGroup
    split <;> rfl

/-- With no register free the rename of a producing instruction stalls. -/
theorem runAt_R_of_stall {k h : Nat} {r : Record} (hr : s.recs[h]? = some r) (hwf : r.instr.wellFormed = true)
    (hp : r.instr.produces = true) (hf : s.free = []) : runAt .R k h s = .next (s.focusOn .R k h) := by
  obtain hp' | ⟨d, hd⟩ : (rolesOf r.instr).dst.producing = false ∨ ∃ d, (rolesOf r.instr).dst = .alloc d := by
    cases (rolesOf r.instr).dst with
    | alloc d => exact .inr ⟨d, rfl⟩
    | zero => exact .inl rfl
    | copy a => exact .inl rfl
  · rw [rolesOf_producing hwf, hp] at hp'
    cases hp'
  · refine runAt_eq_next.2 ⟨r, hr, hwf, ?_⟩
    rw [pass_R, hd, State.renameOne, State.focusOn_free, hf]

/-- A completed rename has set its stamp. -/
theorem renamed_set_renamedRecord {u : State} {h : Nat} {r : Record} {p : Nat} (hr : s.recs[h]? = some r)
    (hu : u.recs = s.recs.set h (s.renamedRecord r p)) : u.renamed h = true := by
  have hlt := (List.getElem?_eq_some_iff.1 hr).1
  rw [State.renamed, hu, List.getElem?_set_self hlt]
  rfl

/-- A slot that is still pending after its turn has stalled. -/
theorem runAt_R_stalls {k h : Nat} (ht : runAt .R k h s = .next t) (hp : t.renamed h = false) :
    ∃ r, s.recs[h]? = some r ∧ r.instr.wellFormed = true ∧ r.instr.produces = true ∧ s.free = [] ∧
      t = s.focusOn .R k h := by
  obtain ⟨r, hr, hwf, ⟨hprod, hf, ht⟩ | ⟨d, p, rest, -, -, ht⟩ | ⟨p, -, ht⟩⟩ := runAt_R_cases ht
  · exact ⟨r, hr, hwf, hprod, hf, ht⟩
  · rw [renamed_set_renamedRecord hr (congrArg State.recs ht)] at hp
    cases hp
  · rw [renamed_set_renamedRecord hr (congrArg State.recs ht)] at hp
    cases hp

/-- A rename that has completed stays so through Rename. -/
theorem renamed_keptAt_R (x : Nat) : KeptAt .R fun u => u.renamed x = true := by
  intro k h u v hu hv
  have kept : ∀ {r p}, u.recs[h]? = some r → v.recs = u.recs.set h (u.renamedRecord r p) → v.renamed x = true := by
    intro r p hr hrecs
    by_cases hx : x = h
    · rw [hx, renamed_set_renamedRecord hr hrecs]
    · rwa [State.renamed, hrecs, List.getElem?_set_ne (Ne.symm hx)]
  obtain ⟨r, hr, -, ⟨-, -, rfl⟩ | ⟨d, p, rest, -, -, rfl⟩ | ⟨p, -, rfl⟩⟩ := runAt_R_cases hv
  · exact hu
  · exact kept hr rfl
  · exact kept hr rfl

end

/-! ### The loops, slot by slot -/

section
variable {s : State} {n k h : Nat}

theorem commitWalk_succ_of_nil (hrob : s.rob = []) : commitWalk (n + 1) s = .next s := by rw [commitWalk, hrob]

theorem commitWalk_succ_of_not_ready {e : ROBEntry} {rest : List ROBEntry} (hrob : s.rob = e :: rest)
    (he : ¬ e.ready = true) : commitWalk (n + 1) s = .next s := by
  simp only [commitWalk, hrob, if_neg he]

theorem commitWalk_succ_of_ready {e : ROBEntry} {rest : List ROBEntry} (hrob : s.rob = e :: rest)
    (he : e.ready = true) : commitWalk (n + 1) s = andThen (runAt .C 0 e.instrRef s) (commitWalk n) := by
  simp only [commitWalk, hrob, if_pos he]

theorem writebackDrain_succ_of_nil (hq : s.wbq = []) : writebackDrain (n + 1) s = .next s := by
  rw [writebackDrain, hq]

theorem writebackDrain_succ_of_cons {rest : List Nat} (hq : s.wbq = h :: rest) :
    writebackDrain (n + 1) s = andThen (runAt .W 0 h s) (writebackDrain n) := by
  simp only [writebackDrain, hq]

theorem dispatchSlots_succ_of_empty (hk : slotAt s.latchR k = none) :
    dispatchSlots (n + 1) k s = dispatchSlots n (k + 1) s := by
  simp only [dispatchSlots, hk]

theorem dispatchSlots_succ_of_pending (hk : slotAt s.latchR k = some h) (hr : ¬ s.renamed h = true) :
    dispatchSlots (n + 1) k s = dispatchSlots n (k + 1) s := by
  simp only [dispatchSlots, hk, if_neg hr]

theorem renameSlots_succ_of_empty (hk : slotAt s.latchR k = none) :
    renameSlots (n + 1) k s = renameSlots n (k + 1) s := by
  simp only [renameSlots, hk]

theorem renameSlots_succ_of_renamed (hk : slotAt s.latchR k = some h) (hr : s.renamed h = true) :
    renameSlots (n + 1) k s = renameSlots n (k + 1) s := by
  simp only [renameSlots, hk, if_pos hr]

theorem renameSlots_succ_of_stall {u : State} (hk : slotAt s.latchR k = some h) (hr : ¬ s.renamed h = true)
    (hu : runAt .R k h s = .next u) (hp : ¬ u.renamed h = true) : renameSlots (n + 1) k s = .next u := by
  simp only [renameSlots, hk, if_neg hr, hu, andThen_next, if_neg hp]

theorem decodeSlots_succ_of_empty (hk : slotAt s.latchF k = none) :
    decodeSlots (n + 1) k s = decodeSlots n (k + 1) s := by
  simp only [decodeSlots, hk]

theorem fetchSlots_succ_of_end (hend : s.config.trace[s.fetchOffset]? = none) : fetchSlots (n + 1) k s = .next s := by
  simp only [fetchSlots, hend]

end

/-! ### A stage with nothing to move, under any cycle number -/

/-- The state with another cycle number. -/
def State.withCycle (c : Nat) (s : State) : State := { s with currentCycle := c }

theorem slotAt_set_none {l : List (Option Nat)} {i k : Nat} (h : i = k ∨ slotAt l i = none) :
    slotAt (l.set k none) i = none := by
  by_cases hi : i < l.length
  · rw [slotAt_set _ _ _ hi]
    split
    · rfl
    · next hik => exact h.resolve_left hik
  · exact Option.eq_none_iff_forall_ne_some.2 fun y hy => hi (by simpa using lt_length_of_slotAt hy)

section
variable {s t : State}

theorem commitWalk_idle {n : Nat} (h : commitWalk n s = .next t) (hc : t.completedCount = s.completedCount) :
    t = s ∧ ∀ c, commitWalk n (s.withCycle c) = .next (s.withCycle c) := by
  cases n with
  | zero => exact ⟨(next_inj.1 h).symm, fun _ => rfl⟩
  | succ n =>
    cases hrob : s.rob with
    | nil =>
      rw [commitWalk_succ_of_nil hrob] at h
      exact ⟨(next_inj.1 h).symm, fun c => commitWalk_succ_of_nil (s := s.withCycle c) hrob⟩
    | cons e rest =>
      by_cases he : e.ready = true
      · rw [commitWalk_succ_of_ready hrob he] at h
        obtain ⟨u, hu, ht⟩ := andThen_eq_next.1 h
        have grows := commitWalk_keeps (P := fun v => s.completedCount < v.completedCount)
          (fun _ _ _ _ hv _ _ hw => by
            obtain ⟨r, -, -, rfl⟩ := runAt_eq_next.1 hw
            exact Nat.lt_succ_of_lt hv) n u t
          (by obtain ⟨r, -, -, rfl⟩ := runAt_eq_next.1 hu; exact Nat.lt_succ_self _) ht
        omega
      · rw [commitWalk_succ_of_not_ready hrob he] at h
        exact ⟨(next_inj.1 h).symm, fun c => commitWalk_succ_of_not_ready (s := s.withCycle c) hrob he⟩

theorem writebackDrain_idle {n : Nat} (h : writebackDrain n s = .next t) (hq : t.wbq = s.wbq) :
    t = s ∧ ∀ c, writebackDrain n (s.withCycle c) = .next (s.withCycle c) := by
  cases n with
  | zero => exact ⟨(next_inj.1 h).symm, fun _ => rfl⟩
  | succ n =>
    cases hwbq : s.wbq with
    | nil =>
      rw [writebackDrain_succ_of_nil hwbq] at h
      exact ⟨(next_inj.1 h).symm, fun c => writebackDrain_succ_of_nil (s := s.withCycle c) hwbq⟩
    | cons x rest =>
      rw [writebackDrain_succ_of_cons hwbq] at h
      obtain ⟨u, hu, ht⟩ := andThen_eq_next.1 h
      have shrinks := writebackDrain_keeps (P := fun v => v.wbq.length ≤ rest.length)
        (fun v _ _ _ hv _ hw => by
          obtain ⟨r, -, -, rfl⟩ := runAt_eq_next.1 hw
          rw [pass_W, State.writebackOne_wbq, State.focusOn_wbq, List.length_tail]
          omega) n u t
        (by obtain ⟨r, -, -, rfl⟩ := runAt_eq_next.1 hu; simp [hwbq]) ht
      rw [hq, hwbq, List.length_cons] at shrinks
      omega

/-- The wakeup pass with no tag on the wires changes nothing. -/
theorem wakeup_of_no_tags (hw : s.wbTags = []) (hi : s.isTags = []) : s.wakeup = s := by
  have noMatch : ∀ x : Option Src, srcMatches [] x = false := fun x => by
    match x with
    | none => rfl
    | some (.reg _) => rfl
    | some (.imm _) => rfl
  have same : wakeEntry s.recs (s.wbTags ++ s.isTags) = id := by
    funext e
    rw [hw, hi, List.append_nil]
    unfold wakeEntry
    split
    · simp [noMatch]
    · rfl
  rw [State.wakeup, same, List.map_id]

/-- Issue that leaves the handles of its queue as they were has selected none. -/
theorem selected_nil_of_issueStage (h : issueStage s = .next t)
    (hq : t.iq.map IQEntry.instrRef = s.iq.map IQEntry.instrRef) : s.selected = [] := by
  obtain ⟨u, hu, ht⟩ := andThen_eq_next.1 h
  rw [← next_inj.1 ht, State.wakeup_iq, List.map_map] at hq
  cases hsel : s.selected with
  | nil => rfl
  | cons e es =>
    rw [hsel] at hu
    obtain ⟨v, hv, hu⟩ := andThen_eq_next.1 hu
    have gone := issueEach_keeps (P := fun _ w => e.instrRef ∉ w.iq.map IQEntry.instrRef)
      (fun _ _ w _ hw hx => by
        obtain ⟨r, -, -, rfl⟩ := runAt_eq_next.1 hx
        exact fun hmem => hw (List.map_subset _ (List.filter_subset_self _) hmem)) es v u
      (by
        obtain ⟨r, -, -, rfl⟩ := runAt_eq_next.1 hv
        simp) hu
    have there : e.instrRef ∈ s.iq.map IQEntry.instrRef :=
      List.mem_map_of_mem (State.mem_iq_of_mem_selected (hsel ▸ List.mem_cons_self)).1
    have same : IQEntry.instrRef ∘ wakeEntry u.recs (u.wbTags ++ u.isTags) = IQEntry.instrRef := by
      funext e
      exact wakeEntry_instrRef _ _ e
    rw [← hq, same] at there
    exact absurd there gone

theorem issueStage_of_selected_nil (hsel : s.selected = []) (hw : s.wbTags = []) (hi : s.isTags = []) :
    issueStage s = .next s := by
  rw [issueStage, hsel, issueEach, andThen_next, wakeup_of_no_tags hw hi]

theorem dispatchSlots_idle {n k : Nat} (h : dispatchSlots n k s = .next t) (hc : t.iqAgeCounter = s.iqAgeCounter) :
    t = s ∧ ∀ c, dispatchSlots n k (s.withCycle c) = .next (s.withCycle c) := by
  induction n generalizing k with
  | zero => exact ⟨(next_inj.1 h).symm, fun _ => rfl⟩
  | succ n ih =>
    cases hk : slotAt s.latchR k with
    | none =>
      rw [dispatchSlots_succ_of_empty hk] at h
      obtain ⟨ht, idle⟩ := ih h
      exact ⟨ht, fun c => (dispatchSlots_succ_of_empty (s := s.withCycle c) hk).trans (idle c)⟩
    | some x =>
      by_cases hr : s.renamed x = true
      · rw [dispatchSlots, hk] at h
        obtain ⟨u, hu, ht⟩ := andThen_eq_next.1 ((if_pos hr).symm.trans h)
        have grows := dispatchSlots_keeps (P := fun _ v => s.iqAgeCounter < v.iqAgeCounter) (fun _ _ hv _ => hv)
          (fun _ _ _ _ hv _ _ hw => by
            obtain ⟨r, -, -, rfl⟩ := runAt_eq_next.1 hw
            exact Nat.lt_succ_of_lt hv) n (k + 1) u t
          (by obtain ⟨r, -, -, rfl⟩ := runAt_eq_next.1 hu; exact Nat.lt_succ_self _) ht
        omega
      · rw [dispatchSlots_succ_of_pending hk hr] at h
        obtain ⟨ht, idle⟩ := ih h
        exact ⟨ht, fun c => (dispatchSlots_succ_of_pending (s := s.withCycle c) hk hr).trans (idle c)⟩

/-- Rename that leaves the records as they were has renamed none; at most the cursor stands on a slot that stalls. -/
theorem renameSlots_idle {n k : Nat} (h : renameSlots n k s = .next t) (hrecs : t.recs = s.recs) :
    (∃ f, t = { s with focus := f }) ∧ ∀ c, renameSlots n k (s.withCycle c) = .next (t.withCycle c) := by
  induction n generalizing k with
  | zero => exact ⟨⟨s.focus, (next_inj.1 h).symm⟩, fun c => next_inj.1 h ▸ rfl⟩
  | succ n ih =>
    cases hk : slotAt s.latchR k with
    | none =>
      rw [renameSlots_succ_of_empty hk] at h
      obtain ⟨ht, idle⟩ := ih h
      exact ⟨ht, fun c => (renameSlots_succ_of_empty (s := s.withCycle c) hk).trans (idle c)⟩
    | some x =>
      by_cases hr : s.renamed x = true
      · rw [renameSlots_succ_of_renamed hk hr] at h
        obtain ⟨ht, idle⟩ := ih h
        exact ⟨ht, fun c => (renameSlots_succ_of_renamed (s := s.withCycle c) hk hr).trans (idle c)⟩
      · rw [renameSlots, hk] at h
        obtain ⟨u, hu, ht⟩ := andThen_eq_next.1 ((if_neg hr).symm.trans h)
        by_cases hdone : u.renamed x = true
        · rw [if_pos hdone] at ht
          have kept := (renameSlots_keeps (P := fun _ v => v.renamed x = true) (Q := fun v => v.renamed x = true)
            (fun _ _ hv _ => hv) (fun _ _ _ _ hv _ _ hw _ => renamed_keptAt_R x _ _ _ _ hv hw)
            (fun _ _ _ _ hv _ _ hw _ => renamed_keptAt_R x _ _ _ _ hv hw) n (k + 1) u t hdone ht).elim id id
          rw [State.renamed, hrecs] at kept
          exact absurd kept hr
        · rw [if_neg hdone] at ht
          obtain ⟨r, hget, hwf, hp, hf, rfl⟩ := runAt_R_stalls hu (by simpa using hdone)
          cases next_inj.1 ht
          exact ⟨⟨_, rfl⟩, fun c => renameSlots_succ_of_stall (s := s.withCycle c) hk hr
            (runAt_R_of_stall (s := s.withCycle c) hget hwf hp hf) hdone⟩

theorem decodeSlots_idle {n k : Nat} (h : decodeSlots n k s = .next t) (hF : t.latchF = s.latchF) :
    t = s ∧ ∀ c, decodeSlots n k (s.withCycle c) = .next (s.withCycle c) := by
  induction n generalizing k with
  | zero => exact ⟨(next_inj.1 h).symm, fun _ => rfl⟩
  | succ n ih =>
    cases hk : slotAt s.latchF k with
    | none =>
      rw [decodeSlots_succ_of_empty hk] at h
      obtain ⟨ht, idle⟩ := ih h
      exact ⟨ht, fun c => (decodeSlots_succ_of_empty (s := s.withCycle c) hk).trans (idle c)⟩
    | some x =>
      rw [decodeSlots, hk] at h
      obtain ⟨u, hu, ht⟩ := andThen_eq_next.1 h
      have emptied := decodeSlots_keeps (P := fun _ v => slotAt v.latchF k = none) (fun _ _ hv _ => hv)
        (fun _ _ _ _ hv _ hw => by
          obtain ⟨r, -, -, rfl⟩ := runAt_eq_next.1 hw
          exact slotAt_set_none (.inr hv)) n (k + 1) u t
        (by obtain ⟨r, -, -, rfl⟩ := runAt_eq_next.1 hu; exact slotAt_set_none (.inl rfl)) ht
      rw [hF, hk] at emptied
      cases emptied

theorem fetchSlots_idle {n k : Nat} (h : fetchSlots n k s = .next t) (hoff : t.fetchOffset = s.fetchOffset) :
    t = s ∧ ∀ c, fetchSlots n k (s.withCycle c) = .next (s.withCycle c) := by
  cases n with
  | zero => exact ⟨(next_inj.1 h).symm, fun _ => rfl⟩
  | succ n =>
    cases hi : s.config.trace[s.fetchOffset]? with
    | none =>
      rw [fetchSlots_succ_of_end hi] at h
      exact ⟨(next_inj.1 h).symm, fun c => fetchSlots_succ_of_end (s := s.withCycle c) hi⟩
    | some i =>
      rw [fetchSlots, hi] at h
      obtain ⟨u, hu, ht⟩ := andThen_eq_next.1 h
      have grows := fetchSlots_keeps (P := fun _ v => s.fetchOffset < v.fetchOffset)
        (Q := fun v => s.fetchOffset < v.fetchOffset)
        (fun _ _ _ _ hv _ hw => by
          obtain ⟨-, rfl⟩ := exec_eq_next.1 hw
          exact Nat.lt_succ_of_lt hv) (fun _ _ hv _ => hv) n (k + 1) u t
        (by obtain ⟨-, rfl⟩ := exec_eq_next.1 hu; exact Nat.lt_succ_self _) ht
      have := grows.elim id id
      omega

theorem decodeStage_idle (h : decodeStage s = .next t) (hF : t.latchF = s.latchF) :
    t = s ∧ ∀ c, decodeStage (s.withCycle c) = .next (s.withCycle c) := by
  by_cases hDc : latchEmpty s.latchDc = true
  · rw [decodeStage, if_pos hDc] at h
    obtain ⟨ht, idle⟩ := decodeSlots_idle h hF
    exact ⟨ht, fun c => (if_pos hDc).trans (idle c)⟩
  · rw [decodeStage, if_neg hDc] at h
    exact ⟨(next_inj.1 h).symm, fun c => if_neg hDc⟩

theorem fetchStage_idle (h : fetchStage s = .next t) (hoff : t.fetchOffset = s.fetchOffset) :
    t = s ∧ ∀ c, fetchStage (s.withCycle c) = .next (s.withCycle c) := by
  by_cases hF : latchEmpty s.latchF = true
  · rw [fetchStage, if_pos hF] at h
    obtain ⟨ht, idle⟩ := fetchSlots_idle h hoff
    exact ⟨ht, fun c => (if_pos hF).trans (idle c)⟩
  · rw [fetchStage, if_neg hF] at h
    exact ⟨(next_inj.1 h).symm, fun c => if_neg hF⟩

theorem takeGroup_withCycle (c : Nat) : (s.withCycle c).takeGroup = s.takeGroup.withCycle c := by
  unfold State.takeGroup
  by_cases hR : latchEmpty s.latchR = true
  · rw [if_pos hR]
    exact if_pos hR
  · rw [if_neg hR]
    exact if_neg hR

/-! ### The tick that only counts -/

/-- A tick that changes only the cycle number does the same under any other. -/
theorem tick_withCycle (h : tick s = .next { s with currentCycle := s.currentCycle + 1 }) (c : Nat) :
    tick (s.withCycle c) = .next (s.withCycle (c + 1)) := by
  obtain ⟨s₁, s₂, s₃, s₄, s₅, s₆, s₇, hC, hW, hIS, hDi, hR, hDc, hF, hend⟩ := tick_eq_next h
  have fW := writebackStage_frame hW
  have fIS := issueStage_frame hIS
  have fDi := dispatchStage_frame hDi
  have fR := renameStage_frame hR
  have fDc := decodeStage_frame hDc
  have fF := fetchStage_frame hF
  have committed : s₁ = s.clearWires ∧ ∀ c, commitStage (s.clearWires.withCycle c) = .next (s.clearWires.withCycle c) :=
    commitWalk_idle hC <| calc
      s₁.completedCount = s₂.completedCount := (congrArg State.completedCount fW).symm
      _ = s₃.completedCount := (congrArg State.completedCount fIS).symm
      _ = s₄.completedCount := (congrArg State.completedCount fDi).symm
      _ = s₅.completedCount := (congrArg State.completedCount fR).symm
      _ = s₆.completedCount := (congrArg State.completedCount fDc).symm
      _ = s₇.completedCount := (congrArg State.completedCount fF).symm
      _ = s.completedCount := (congrArg State.completedCount hend).symm
  obtain ⟨rfl, idleC⟩ := committed
  have dispatched : s₄ = s₃.clearDi ∧ ∀ c, dispatchStage (s₃.withCycle c) = .next (s₃.clearDi.withCycle c) :=
    dispatchSlots_idle hDi <| calc
      s₄.iqAgeCounter = s₅.iqAgeCounter := (congrArg State.iqAgeCounter fR).symm
      _ = s₆.iqAgeCounter := (congrArg State.iqAgeCounter fDc).symm
      _ = s₇.iqAgeCounter := (congrArg State.iqAgeCounter fF).symm
      _ = s.iqAgeCounter := (congrArg State.iqAgeCounter hend).symm
      _ = s₂.iqAgeCounter := (congrArg State.iqAgeCounter fW).symm
      _ = s₃.iqAgeCounter := (congrArg State.iqAgeCounter fIS).symm
  obtain ⟨rfl, idleDi⟩ := dispatched
  have noneSelected : s₂.selected = [] := selected_nil_of_issueStage hIS <| congrArg (List.map IQEntry.instrRef) <| calc
      s₃.iq = s₅.iq := (congrArg State.iq fR).symm
      _ = s₆.iq := (congrArg State.iq fDc).symm
      _ = s₇.iq := (congrArg State.iq fF).symm
      _ = s.iq := (congrArg State.iq hend).symm
      _ = s₂.iq := (congrArg State.iq fW).symm
  have woken : s₃ = s₂.wakeup := by
    rw [issueStage, noneSelected, issueEach, andThen_next, next_inj] at hIS
    exact hIS.symm
  have written : s₂ = s.clearWires ∧ ∀ c, writebackStage (s.clearWires.withCycle c) = .next (s.clearWires.withCycle c) :=
    writebackDrain_idle hW <| calc
      s₂.wbq = s₃.wbq := (congrArg State.wbq woken).symm
      _ = s₅.wbq := (congrArg State.wbq fR).symm
      _ = s₆.wbq := (congrArg State.wbq fDc).symm
      _ = s₇.wbq := (congrArg State.wbq fF).symm
      _ = s.wbq := (congrArg State.wbq hend).symm
  obtain ⟨rfl, idleW⟩ := written
  obtain rfl : s₃ = s.clearWires := woken.trans (wakeup_of_no_tags rfl rfl)
  have idleIS : issueStage (s.clearWires.withCycle c) = .next (s.clearWires.withCycle c) :=
    issueStage_of_selected_nil noneSelected rfl rfl
  have fetched : s₇ = s₆ ∧ ∀ c, fetchStage (s₆.withCycle c) = .next (s₆.withCycle c) := fetchStage_idle hF <| calc
      s₇.fetchOffset = s.fetchOffset := (congrArg State.fetchOffset hend).symm
      _ = s₅.fetchOffset := (congrArg State.fetchOffset fR).symm
      _ = s₆.fetchOffset := (congrArg State.fetchOffset fDc).symm
  obtain ⟨rfl, idleF⟩ := fetched
  have decoded : s₇ = s₅ ∧ ∀ c, decodeStage (s₅.withCycle c) = .next (s₅.withCycle c) := decodeStage_idle hDc <| calc
      s₇.latchF = s.latchF := (congrArg State.latchF hend).symm
      _ = s₅.latchF := (congrArg State.latchF fR).symm
  obtain ⟨rfl, idleDc⟩ := decoded
  have sameRecs : s₇.recs = s.clearWires.clearDi.takeGroup.recs := by
    rw [State.takeGroup_recs]
    exact (congrArg State.recs hend).symm
  obtain ⟨-, stalled⟩ := renameSlots_idle hR sameRecs
  have idleR : renameStage (s.clearWires.clearDi.withCycle c) = .next (s₇.withCycle c) := by
    rw [renameStage, takeGroup_withCycle]
    exact stalled c
  have before : beforeFetch (s.withCycle c) = .next (s₇.withCycle c) :=
    andThen_eq_next.2 ⟨_, idleC c, andThen_eq_next.2 ⟨_, idleW c, andThen_eq_next.2 ⟨_, idleIS,
      andThen_eq_next.2 ⟨_, idleDi c, andThen_eq_next.2 ⟨_, idleR, idleDc c⟩⟩⟩⟩⟩
  refine andThen_eq_next.2 ⟨_, before, andThen_eq_next.2 ⟨_, idleF c, ?_⟩⟩
  exact congrArg (fun u => Host.Outcome.next (State.withCycle (c + 1) u)) hend.symm

end

/-- Settles O35: `tick_withCycle` at every cycle number. -/
theorem hangRepeatsForEver : Obligations.HangRepeatsForEver := by
  intro s h
  obtain ⟨hc, ⟨-, hsame⟩ | ⟨hd, htick⟩⟩ := advance_eq_next h
  · have := congrArg State.currentCycle hsame
    exact absurd this (Nat.succ_ne_self _)
  · have again : ∀ c, step (s.withCycle c) = .next (s.withCycle (c + 1)) := fun c => by
      have undone : ¬ (s.withCycle c).done = true := fun hdone => by
        rw [show s.done = true from hdone] at hd
        cases hd
      rw [step, advance, show configRefusal (s.withCycle c).config = none from hc]
      exact (if_neg undone).trans (tick_withCycle htick c)
    have runs : ∀ k c, Host.Core.run core k (s.withCycle c) = .next (s.withCycle (c + k)) := fun k => by
      induction k with
      | zero => exact fun _ => rfl
      | succ k ih =>
        intro c
        rw [run_succ_of_step_eq_next (again c), ih (c + 1), Nat.add_assoc, Nat.add_comm 1 k]
    exact fun k => runs k s.currentCycle

end Sys2Proof.Machine

/-! # What each stage does with the instructions it takes (44_dispatch.md to 47_commit.md)

Commit, Writeback, Issue and Dispatch write one stamp on the records of the instructions they take and nothing else of
them (`StampedAll`); with it each stage's loop has a closed form. -/

namespace Sys2Proof.Machine

open Sys2Proof

/-! ### Records that are stamped and otherwise kept -/

/-- The records of `t` are those of `s`, where the instructions of `hs` have the cycle number at stage `st`. -/
structure StampedAll (st : Stage) (hs : List Nat) (s t : State) : Prop where
  cycle : t.currentCycle = s.currentCycle
  recs : ∀ j, t.recs[j]? = (s.recs[j]?).map fun r => if j ∈ hs then r.stamp st s.currentCycle else r

theorem Record.stamp_stamp (st : Stage) (c : Nat) (r : Record) : (r.stamp st c).stamp st c = r.stamp st c := by
  cases st <;> rfl

section
variable {st : Stage} {hs hs' : List Nat} {s t u : State}

theorem StampedAll.refl (st : Stage) (s : State) : StampedAll st [] s s := ⟨rfl, fun j => by simp⟩

theorem StampedAll.of_recs_eq (ht : StampedAll st hs s t) (hc : u.currentCycle = t.currentCycle)
    (hr : u.recs = t.recs) : StampedAll st hs s u :=
  ⟨hc.trans ht.cycle, fun j => hr ▸ ht.recs j⟩

theorem StampedAll.trans (ht : StampedAll st hs s t) (hu : StampedAll st hs' t u) :
    StampedAll st (hs ++ hs') s u where
  cycle := hu.cycle.trans ht.cycle
  recs j := by
    rw [hu.recs, ht.recs, ht.cycle]
    cases s.recs[j]? with
    | none => rfl
    | some r => by_cases h : j ∈ hs <;> by_cases h' : j ∈ hs' <;> simp [h, h', Record.stamp_stamp]

theorem StampedAll.of_modify {h : Nat} (hc : t.currentCycle = s.currentCycle)
    (hr : t.recs = s.recs.modify h (Record.stamp st s.currentCycle)) : StampedAll st [h] s t where
  cycle := hc
  recs j := by
    rw [hr, List.getElem?_modify]
    by_cases hj : h = j
    · simp [hj]
    · simp [hj, Ne.symm hj]

/-- One handling at a stage that only stamps. -/
theorem stampedAll_runAt {k h : Nat} (hF : st ≠ .F) (hR : st ≠ .R) (ht : runAt st k h s = .next t) :
    StampedAll st [h] s t := by
  obtain ⟨r, -, -, rfl⟩ := runAt_eq_next.1 ht
  cases st with
  | F => exact absurd rfl hF
  | R => exact absurd rfl hR
  | Dc => exact .of_modify rfl rfl
  | Di => exact .of_modify rfl rfl
  | IS => exact .of_modify rfl rfl
  | W => exact .of_modify rfl rfl
  | C => exact .of_modify rfl rfl

variable (ht : StampedAll st hs s t)
include ht

theorem StampedAll.count : t.count = s.count := by
  refine Nat.le_antisymm ?_ ?_ <;> refine Nat.le_of_not_lt fun hlt => ?_
  · have := ht.recs s.count
    rw [List.getElem?_eq_getElem hlt, List.getElem?_eq_none le_rfl] at this
    cases this
  · have := ht.recs t.count
    rw [List.getElem?_eq_getElem hlt, List.getElem?_eq_none le_rfl] at this
    cases this

theorem StampedAll.stampOf (x : Stage) (j : Nat) :
    t.stampOf x j = if x = st ∧ j ∈ hs ∧ j < s.count then some s.currentCycle else s.stampOf x j := by
  rw [State.stampOf, ht.recs]
  cases hj : s.recs[j]? with
  | none =>
    have : ¬ j < s.count := Nat.not_lt.2 (List.getElem?_eq_none_iff.1 hj)
    simp [State.stampOf, this]
  | some r =>
    have : j < s.count := (List.getElem?_eq_some_iff.1 hj).1
    rw [State.stampOf_of_getElem? hj, Option.map_some, Option.bind_some]
    by_cases hm : j ∈ hs
    · by_cases hx : x = st
      · subst hx
        simp [hm, this, Record.stamp]
      · simp [hm, hx, Record.stamp, Stamps.get_put_of_ne]
    · simp [hm]

theorem StampedAll.stampOf_of_ne {x : Stage} (hx : x ≠ st) (j : Nat) : t.stampOf x j = s.stampOf x j := by
  rw [ht.stampOf, if_neg fun h => hx h.1]

theorem StampedAll.stampOf_self {j : Nat} (hj : j < s.count) :
    t.stampOf st j = if j ∈ hs then some s.currentCycle else s.stampOf st j := by
  rw [ht.stampOf]
  simp [hj]

/-- A part of the record that no stamp is in is kept. -/
theorem StampedAll.bind_recs {α : Type} {g : Record → Option α} (hg : ∀ c r, g (Record.stamp st c r) = g r) (j : Nat) :
    (t.recs[j]?).bind g = (s.recs[j]?).bind g := by
  rw [ht.recs]
  cases s.recs[j]? with
  | none => rfl
  | some r =>
    rw [Option.map_some, Option.bind_some, Option.bind_some]
    split
    · exact hg _ _
    · rfl

theorem StampedAll.physDstOf (j : Nat) : t.physDstOf j = s.physDstOf j :=
  ht.bind_recs (g := Record.physDst) (fun _ _ => rfl) j

theorem StampedAll.producesAt (j : Nat) : t.producesAt j = s.producesAt j := by
  rw [State.producesAt, State.producesAt, ht.recs]
  cases s.recs[j]? with
  | none => rfl
  | some r =>
    rw [Option.map_some, Option.map_some, Option.map_some]
    split <;> rfl

theorem StampedAll.ownReg (b : Bool) (j : Nat) : t.ownReg b j = s.ownReg b j := by
  rw [State.ownReg, State.ownReg, ht.physDstOf]

end

/-- What one handling does with the own register is what `producesAt` says of the instruction. -/
theorem rolesOf_producing_eq_producesAt {s : State} {h : Nat} {r : Record} (hr : s.recs[h]? = some r)
    (hwf : r.instr.wellFormed = true) : (rolesOf r.instr).dst.producing = s.producesAt h := by
  rw [rolesOf_producing hwf, State.producesAt, hr]
  rfl

/-- The own registers of a list of instructions, those that are not producing left out. -/
def State.ownRegs (s : State) (hs : List Nat) : List Nat := hs.flatMap fun h => s.ownReg (s.producesAt h) h

theorem StampedAll.ownRegs {st : Stage} {hs : List Nat} {s t : State} (ht : StampedAll st hs s t) (l : List Nat) :
    t.ownRegs l = s.ownRegs l := by
  simp only [State.ownRegs, ht.producesAt, ht.ownReg]

theorem State.ownRegs_append (s : State) (l m : List Nat) : s.ownRegs (l ++ m) = s.ownRegs l ++ s.ownRegs m :=
  List.flatMap_append

theorem State.mem_ownRegs {s : State} {l : List Nat} {p : Nat} :
    p ∈ s.ownRegs l ↔ ∃ h ∈ l, s.producesAt h = true ∧ s.physDstOf h = some p := by
  rw [State.ownRegs, List.mem_flatMap]
  refine exists_congr fun h => and_congr_right fun _ => ?_
  rw [State.ownReg]
  split
  · next hp => simp [hp]
  · next hp => simp [hp]

/-! ### Commit -/

/-- Commit of `s` has retired the `k` entries at the head of the reorder buffer in state `t`. -/
structure Retired (s : State) (k : Nat) (t : State) : Prop where
  stamped : StampedAll .C ((s.rob.take k).map ROBEntry.instrRef) s t
  rob : t.rob = s.rob.drop k
  completed : t.completedCount = s.completedCount + k
  free : t.free = s.free ++ s.ownRegs ((s.rob.take k).map ROBEntry.instrRef)
  rdy : t.rdy = setReady s.rdy (s.ownRegs ((s.rob.take k).map ROBEntry.instrRef))

theorem Retired.refl (s : State) : Retired s 0 s where
  stamped := .refl .C s
  rob := rfl
  completed := rfl
  free := (List.append_nil _).symm
  rdy := rfl

theorem retired_runAt {s t : State} {e : ROBEntry} {rest : List ROBEntry} (hrob : s.rob = e :: rest)
    (ht : runAt .C 0 e.instrRef s = .next t) : Retired s 1 t := by
  have stamped := stampedAll_runAt (by decide) (by decide) ht
  obtain ⟨r, hr, hwf, rfl⟩ := runAt_eq_next.1 ht
  have own := rolesOf_producing_eq_producesAt hr hwf
  have regs : s.ownRegs ((s.rob.take 1).map ROBEntry.instrRef) = s.ownReg (s.producesAt e.instrRef) e.instrRef := by
    simp [hrob, State.ownRegs]
  refine ⟨by simpa [hrob] using stamped, by simp [hrob], rfl, ?_, ?_⟩
  · rw [pass_C, State.commitOne_free, own, regs]
    rfl
  · rw [pass_C, State.commitOne_rdy, own, regs]
    rfl

theorem Retired.cons {s u t : State} {e : ROBEntry} {rest : List ROBEntry} {k : Nat} (hrob : s.rob = e :: rest)
    (hu : Retired s 1 u) (ht : Retired u k t) : Retired s (k + 1) t := by
  have left : u.rob = rest := by rw [hu.rob, hrob]; rfl
  have taken : (s.rob.take (k + 1)).map ROBEntry.instrRef =
      (s.rob.take 1).map ROBEntry.instrRef ++ (u.rob.take k).map ROBEntry.instrRef := by
    simp [hrob, left]
  refine ⟨taken ▸ hu.stamped.trans ht.stamped, ?_, ?_, ?_, ?_⟩
  · rw [ht.rob, left, hrob, List.drop_succ_cons]
  · rw [ht.completed, hu.completed]
    omega
  · rw [ht.free, hu.free, hu.stamped.ownRegs, taken, State.ownRegs_append, List.append_assoc]
  · rw [ht.rdy, hu.rdy, hu.stamped.ownRegs, taken, State.ownRegs_append, setReady, setReady, setReady,
      List.foldl_append]

theorem commitWalk_retired {n : Nat} {s t : State} (h : commitWalk n s = .next t) :
    Retired s (min n (s.rob.takeWhile ROBEntry.ready).length) t := by
  induction n generalizing s with
  | zero =>
    rw [Nat.zero_min]
    exact next_inj.1 h ▸ .refl s
  | succ n ih =>
    cases hrob : s.rob with
    | nil =>
      rw [commitWalk_succ_of_nil hrob] at h
      exact next_inj.1 h ▸ .refl s
    | cons e rest =>
      by_cases he : e.ready = true
      · rw [commitWalk_succ_of_ready hrob he] at h
        obtain ⟨u, hu, ht⟩ := andThen_eq_next.1 h
        have first := retired_runAt hrob hu
        have left : u.rob = rest := by rw [first.rob, hrob]; rfl
        have all := first.cons hrob (ih ht)
        rwa [List.takeWhile_cons_of_pos he, List.length_cons, Nat.succ_min_succ, ← left]
      · rw [commitWalk_succ_of_not_ready hrob he] at h
        rw [List.takeWhile_cons_of_neg he]
        exact next_inj.1 h ▸ .refl s

/-- Settles O21: `Retired` at the length of the ready part at the head, cut at `W`. -/
theorem commitRetiresTheReadyPrefix : Obligations.CommitRetiresTheReadyPrefix := by
  intro s t h
  have frame := commitStage_frame h
  have retired := commitWalk_retired h
  refine ⟨_, rfl, retired.rob, retired.completed, ?_, fun j hj => retired.stamped.stampOf_self hj,
    fun j st hst => retired.stamped.stampOf_of_ne hst j, (congrArg State.map frame :), (congrArg State.iq frame :),
    (congrArg State.wbq frame :), (congrArg State.latchF frame :), (congrArg State.latchDc frame :),
    (congrArg State.latchR frame :), (congrArg State.latchDi frame :)⟩
  rw [retired.free, State.ownRegs, List.flatMap_map]

/-! ### Writeback -/

/-- The reorder buffer with the entries of the listed instructions marked ready. -/
def markAllReady (hs : List Nat) (rob : List ROBEntry) : List ROBEntry :=
  rob.map fun e => if e.instrRef ∈ hs then { e with ready := true } else e

theorem markAllReady_cons (h : Nat) (hs : List Nat) (rob : List ROBEntry) :
    markAllReady hs (markReady h rob) = markAllReady (h :: hs) rob := by
  rw [markAllReady, markAllReady, markReady, List.map_map]
  refine List.map_congr_left fun e _ => ?_
  by_cases he : e.instrRef = h <;> by_cases hm : e.instrRef ∈ hs <;> simp [he, hm]

theorem markAllReady_nil (rob : List ROBEntry) : markAllReady [] rob = rob := by
  simp [markAllReady]

/-- Writeback of `s` has drained the `k` instructions at the head of the queue in state `t`. -/
structure Drained (s : State) (k : Nat) (t : State) : Prop where
  stamped : StampedAll .W (s.wbq.take k) s t
  wbq : t.wbq = s.wbq.drop k
  rob : t.rob = markAllReady (s.wbq.take k) s.rob
  wbTags : t.wbTags = s.wbTags ++ s.ownRegs (s.wbq.take k)
  rdy : t.rdy = setReady s.rdy (s.ownRegs (s.wbq.take k))

theorem Drained.refl (s : State) : Drained s 0 s where
  stamped := .refl .W s
  wbq := rfl
  rob := (markAllReady_nil _).symm
  wbTags := (List.append_nil _).symm
  rdy := rfl

theorem Drained.cons {s u t : State} {h : Nat} {rest : List Nat} {k : Nat} (hq : s.wbq = h :: rest)
    (hu : runAt .W 0 h s = .next u) (ht : Drained u k t) : Drained s (k + 1) t := by
  have stamped := stampedAll_runAt (by decide) (by decide) hu
  have regs : ∀ l, u.ownRegs l = s.ownRegs l := stamped.ownRegs
  have cons : ∀ l, s.ownRegs (h :: l) = s.ownReg (s.producesAt h) h ++ s.ownRegs l := fun _ => rfl
  obtain ⟨r, hr, hwf, rfl⟩ := runAt_eq_next.1 hu
  have own := rolesOf_producing_eq_producesAt hr hwf
  have left : ((s.focusOn .W 0 h).pass r.instr (rolesOf r.instr)).wbq = rest := by simp [hq]
  have taken : s.wbq.take (k + 1) = h :: rest.take k := by rw [hq, List.take_succ_cons]
  refine ⟨taken ▸ ?_, ?_, taken ▸ ?_, taken ▸ ?_, taken ▸ ?_⟩
  · exact stamped.trans (left ▸ ht.stamped)
  · rw [ht.wbq, left, hq, List.drop_succ_cons]
  · rw [ht.rob, left, ← markAllReady_cons]
    rfl
  · rw [ht.wbTags, left, regs, cons, ← List.append_assoc, ← own]
    rfl
  · rw [ht.rdy, left, regs, cons, ← own, setReady, setReady, List.foldl_append]
    rfl

theorem writebackDrain_drained {n : Nat} {s t : State} (h : writebackDrain n s = .next t) :
    Drained s (min n s.wbq.length) t := by
  induction n generalizing s with
  | zero =>
    rw [Nat.zero_min]
    exact next_inj.1 h ▸ .refl s
  | succ n ih =>
    cases hq : s.wbq with
    | nil =>
      rw [writebackDrain_succ_of_nil hq] at h
      exact next_inj.1 h ▸ .refl s
    | cons x rest =>
      rw [writebackDrain_succ_of_cons hq] at h
      obtain ⟨u, hu, ht⟩ := andThen_eq_next.1 h
      have left : u.wbq = rest := by
        obtain ⟨r, -, -, rfl⟩ := runAt_eq_next.1 hu
        simp [hq]
      have all := Drained.cons hq hu (ih ht)
      rwa [List.length_cons, Nat.succ_min_succ, ← left]

/-- A queue of at most `W` instructions is drained whole. -/
theorem writebackStage_drained {s t : State} (hlen : s.wbq.length ≤ s.config.issueWidth)
    (h : writebackStage s = .next t) : Drained s s.wbq.length t := by
  have drained := writebackDrain_drained h
  rwa [Nat.min_eq_right hlen] at drained

/-- The ready bit of a register of the table after `setReady`, whatever else is listed. -/
theorem readyBit_setReady_of_lt {rdy : List Bool} {p : Nat} (hp : p < rdy.length) (ps : List Nat) :
    readyBit (setReady rdy ps) p = true ↔ readyBit rdy p = true ∨ p ∈ ps := by
  induction ps generalizing rdy with
  | nil => simp [setReady]
  | cons q ps ih =>
    have first : readyBit (rdy.set q true) p = true ↔ readyBit rdy p = true ∨ p = q := by
      rw [readyBit, readyBit, List.getD_eq_getElem?_getD, List.getD_eq_getElem?_getD, List.getElem?_set]
      by_cases hq : q = p
      · simp [hq, hp]
      · simp [hq, Ne.symm hq]
    have rest := ih (rdy := rdy.set q true) (by simpa using hp)
    rw [setReady, List.foldl_cons, ← setReady, rest, first, List.mem_cons, or_assoc]

/-- Settles O22: `Drained` at the whole queue. -/
theorem writebackEmptiesTheQueue : Obligations.WritebackEmptiesTheQueue := by
  intro s t hlen h
  have frame := writebackStage_frame h
  obtain ⟨stamped, hwbq, hrob, htags, hrdy⟩ := writebackStage_drained hlen h
  rw [List.take_length] at stamped hrob htags hrdy
  refine ⟨by rw [hwbq, List.drop_length], fun j hj => stamped.stampOf_self hj,
    fun j st hst => stamped.stampOf_of_ne hst j, hrob, htags, fun p hp => ?_, (congrArg State.map frame :),
    (congrArg State.free frame :), (congrArg State.iq frame :), (congrArg State.latchR frame :)⟩
  rw [hrdy, readyBit_setReady_of_lt hp, State.mem_ownRegs]

end Sys2Proof.Machine

/-! # The wakeup pass, the slots that Dispatch takes and the fence of Rename (43_rename.md to 45_issue.md)

Issue and Dispatch have a closed form as Commit and Writeback have. Rename's loop keeps that the slots on the left are
renamed and those on the right pending, up to the slot that stalls. -/

namespace Sys2Proof.Machine

open Sys2Proof

/-! ### Issue -/

/-- Issue of `s` has come to state `u` with the entries `es` issued, and the wakeup pass still to come. -/
structure IssuedEntries (s : State) (es : List IQEntry) (u : State) : Prop where
  stamped : StampedAll .IS (es.map IQEntry.instrRef) s u
  iq : u.iq = s.iq.filter fun e => decide (e.instrRef ∉ es.map IQEntry.instrRef)
  isTags : u.isTags = s.isTags ++ s.ownRegs (es.map IQEntry.instrRef)

theorem IssuedEntries.start (s : State) : IssuedEntries s [] s where
  stamped := .refl .IS s
  iq := by simp
  isTags := (List.append_nil _).symm

theorem IssuedEntries.issueOne {s u v : State} {es : List IQEntry} {e : IQEntry} (hu : IssuedEntries s es u)
    (hv : runAt .IS 0 e.instrRef u = .next v) : IssuedEntries s (es ++ [e]) v := by
  have stamped := stampedAll_runAt (by decide) (by decide) hv
  obtain ⟨r, hr, hwf, rfl⟩ := runAt_eq_next.1 hv
  have own := rolesOf_producing_eq_producesAt hr hwf
  refine ⟨?_, ?_, ?_⟩
  · rw [List.map_append]
    exact hu.stamped.trans stamped
  · rw [pass_IS, State.issueOne_iq, State.focusOn_iq, hu.iq, List.filter_filter]
    refine List.filter_congr fun x _ => ?_
    rw [State.focusOn_focus, List.map_append, List.map_singleton]
    by_cases hx : x.instrRef = e.instrRef <;> simp [hx]
  · rw [pass_IS, State.issueOne_isTags, State.focusOn_isTags, hu.isTags, own, hu.stamped.producesAt, List.map_append,
      State.ownRegs_append, List.append_assoc]
    have kept := hu.stamped.ownReg (s.producesAt e.instrRef) e.instrRef
    simp only [State.ownRegs, List.map_singleton, List.flatMap_cons, List.flatMap_nil, List.append_nil, ← kept]
    rfl

theorem issueEach_issuedEntries {s t : State} {es : List IQEntry} (h : issueEach es s = .next t) :
    IssuedEntries s es t := by
  obtain ⟨done, hsplit, hu⟩ := issueEach_keeps (P := fun rest u => ∃ done, done ++ rest = es ∧ IssuedEntries s done u)
    (fun e rest u v ⟨done, hsplit, hu⟩ hv => ⟨done ++ [e], by simp [← hsplit], hu.issueOne hv⟩)
    es s t ⟨[], rfl, .start s⟩ h
  rw [List.append_nil] at hsplit
  exact hsplit ▸ hu

/-- Issue issues the selection and then wakes the entries that stay. -/
theorem issueStage_issuedEntries {s t : State} (h : issueStage s = .next t) :
    ∃ u, IssuedEntries s s.selected u ∧ t = u.wakeup := by
  obtain ⟨u, hu, ht⟩ := andThen_eq_next.1 h
  exact ⟨u, issueEach_issuedEntries hu, (next_inj.1 ht).symm⟩

@[simp] theorem wakeEntry_age (rs : List Record) (tags : List Nat) (e : IQEntry) : (wakeEntry rs tags e).age = e.age := by
  unfold wakeEntry
  split <;> rfl

theorem srcMatches_iff {tags : List Nat} {x : Option Src} :
    srcMatches tags x = true ↔ ∃ p ∈ tags, x = some (.reg p) := by
  match x with
  | none => simp [srcMatches]
  | some (.imm v) => simp [srcMatches]
  | some (.reg p) => simp [srcMatches]

/-- A flag after the wakeup pass is true when it was true or the bus names its source. -/
theorem wakeEntry_flag {rs : List Record} {e : IQEntry} {r : Record} (hr : rs[e.instrRef]? = some r) (tags : List Nat)
    (pos : Bool) :
    (wakeEntry rs tags e).flag pos = true ↔ e.flag pos = true ∨ ∃ p ∈ tags, r.source pos = some (.reg p) := by
  have woken : wakeEntry rs tags e =
      { e with
        src1Ready := e.src1Ready || srcMatches tags r.physSrc1
        src2Ready := e.src2Ready || srcMatches tags r.physSrc2 } := by
    rw [wakeEntry, hr]
  rw [woken]
  cases pos with
  | true => exact (Bool.or_eq_true _ _).to_iff.trans (or_congr_right srcMatches_iff)
  | false => exact (Bool.or_eq_true _ _).to_iff.trans (or_congr_right srcMatches_iff)

theorem StampedAll.getElem?_source {st : Stage} {hs : List Nat} {s t : State} (ht : StampedAll st hs s t) {j : Nat}
    {r : Record} (hr : s.recs[j]? = some r) : ∃ r', t.recs[j]? = some r' ∧ ∀ pos, r'.source pos = r.source pos := by
  refine ⟨_, by rw [ht.recs, hr, Option.map_some], fun pos => ?_⟩
  split <;> cases pos <;> rfl

/-- Settles O24: `IssuedEntries` of the selection, and what the wakeup pass does to the flags. -/
theorem wakeupRaisesMatchingFlags : Obligations.WakeupRaisesMatchingFlags := by
  intro s t h
  have frame := issueStage_frame h
  obtain ⟨u, ⟨stamped, hiq, htags⟩, rfl⟩ := issueStage_issuedEntries h
  refine ⟨(congrArg State.wbTags frame :), ?_, ?_, fun e' he' => ?_, (congrArg State.map frame :),
    (congrArg State.rdy frame :), (congrArg State.free frame :), (congrArg State.rob frame :)⟩
  · rw [State.wakeup_isTags, htags, State.ownRegs, List.flatMap_map]
  · rw [State.wakeup_iq, List.map_map, ← hiq]
    exact List.map_congr_left fun e _ => wakeEntry_age _ _ e
  · obtain ⟨e, he, rfl⟩ := List.mem_map.1 he'
    refine ⟨e, List.mem_of_mem_filter (hiq ▸ he), wakeEntry_instrRef _ _ e, wakeEntry_age _ _ e, fun r hr => ?_⟩
    obtain ⟨r', hr', source⟩ := stamped.getElem?_source hr
    have flag := wakeEntry_flag hr' (u.wbTags ++ u.isTags)
    simp only [source] at flag
    exact ⟨flag true, flag false⟩

/-! ### Dispatch -/

/-- Dispatch waits for the register sources of the instruction: it is no store (44_dispatch.md R172). -/
def State.waitsAt (s : State) (h : Nat) : Bool := ((s.recs[h]?).map fun r => (rolesOf r.instr).waits).getD true

/-- The issue-queue entry of an instruction that is dispatched with the given age (44_dispatch.md R172). -/
def State.entryFor (s : State) (h age : Nat) : IQEntry :=
  { instrRef := h
    src1Ready := s.dispatchFlag (s.waitsAt h) ((s.recs[h]?).bind Record.physSrc1)
    src2Ready := s.dispatchFlag (s.waitsAt h) ((s.recs[h]?).bind Record.physSrc2)
    age := age }

theorem StampedAll.entryFor {st : Stage} {hs : List Nat} {s t : State} (ht : StampedAll st hs s t) (hrdy : t.rdy = s.rdy)
    (h age : Nat) : t.entryFor h age = s.entryFor h age := by
  have waits : t.waitsAt h = s.waitsAt h := by
    rw [State.waitsAt, State.waitsAt, ht.recs]
    cases s.recs[h]? with
    | none => rfl
    | some r =>
      rw [Option.map_some, Option.map_some, Option.map_some]
      split <;> rfl
  have flag : ∀ b x, t.dispatchFlag b x = s.dispatchFlag b x := fun b x => by
    rw [State.dispatchFlag, State.dispatchFlag, hrdy]
  rw [State.entryFor, State.entryFor, waits, flag, flag, ht.bind_recs (g := Record.physSrc1) (fun _ _ => rfl),
    ht.bind_recs (g := Record.physSrc2) (fun _ _ => rfl)]

/-- The entries of the listed instructions, with consecutive ages. -/
def State.entriesFor (s : State) (hs : List Nat) : List IQEntry :=
  hs.mapIdx fun n h => s.entryFor h (s.iqAgeCounter + n)

theorem State.entriesFor_append_singleton (s : State) (hs : List Nat) (h : Nat) :
    s.entriesFor (hs ++ [h]) = s.entriesFor hs ++ [s.entryFor h (s.iqAgeCounter + hs.length)] := by
  simp [State.entriesFor, List.mapIdx_append]

theorem State.map_instrRef_entriesFor (s : State) (hs : List Nat) :
    (s.entriesFor hs).map IQEntry.instrRef = hs := by
  refine List.ext_getElem (by simp [State.entriesFor]) fun n _ _ => ?_
  simp [State.entriesFor, State.entryFor]

theorem State.map_age_entriesFor (s : State) (hs : List Nat) :
    (s.entriesFor hs).map IQEntry.age = List.range' s.iqAgeCounter hs.length := by
  refine List.ext_getElem (by simp [State.entriesFor]) fun n _ _ => ?_
  simp [State.entriesFor, State.entryFor]

theorem slotAt_set_ne {l : List (Option Nat)} {i k : Nat} (hik : i ≠ k) (x : Option Nat) :
    slotAt (l.set k x) i = slotAt l i := by
  rw [slotAt, slotAt, List.getElem?_set_ne (Ne.symm hik)]

/-- The renamed instructions among the first `k` slots of latch `R`, left to right. -/
def State.renamedSlots (s : State) (k : Nat) : List Nat :=
  (List.range k).filterMap fun i => (slotAt s.latchR i).filter fun h => s.renamed h

theorem State.renamedSlots_succ (s : State) (k : Nat) :
    s.renamedSlots (k + 1) = s.renamedSlots k ++ ((slotAt s.latchR k).filter fun h => s.renamed h).toList := by
  rw [State.renamedSlots, List.range_succ, List.filterMap_append, State.renamedSlots, List.filterMap_cons]
  cases (slotAt s.latchR k).filter fun h => s.renamed h <;> rfl

/-- Dispatch of `s`, its latch `Di` cleared, has come to slot `k` in state `u`: the renamed slots below `k` are taken. -/
structure SlotsDispatched (s : State) (k : Nat) (u : State) : Prop where
  stamped : StampedAll .Di (s.renamedSlots k) s u
  rob : u.rob = s.rob ++ (s.renamedSlots k).map fun h => { instrRef := h, ready := false, committed := false }
  iq : u.iq = s.iq ++ s.entriesFor (s.renamedSlots k)
  age : u.iqAgeCounter = s.iqAgeCounter + (s.renamedSlots k).length
  rdy : u.rdy = s.rdy
  widthR : u.latchR.length = s.latchR.length
  widthDi : u.latchDi.length = s.config.issueWidth
  slotsR : ∀ i, slotAt u.latchR i =
    if i < k then (slotAt s.latchR i).filter fun h => !s.renamed h else slotAt s.latchR i
  slotsDi : ∀ i < s.config.issueWidth, slotAt u.latchDi i =
    if i < k then (slotAt s.latchR i).filter fun h => s.renamed h else none

theorem slotsDispatched_start (s : State) : SlotsDispatched s 0 s.clearDi where
  stamped := (StampedAll.refl .Di s).of_recs_eq rfl rfl
  rob := (List.append_nil _).symm
  iq := (List.append_nil _).symm
  age := rfl
  rdy := rfl
  widthR := rfl
  widthDi := length_emptyLatch _
  slotsR i := by simp
  slotsDi i _ := by simp

theorem StampedAll.renamed {st : Stage} {hs : List Nat} {s t : State} (ht : StampedAll st hs s t) (hR : st ≠ .R)
    (j : Nat) : t.renamed j = s.renamed j := by
  have key : ∀ u : State, u.renamed j = (u.stampOf .R j).isSome := fun u => by
    rw [State.renamed, State.stampOf]
    cases u.recs[j]? <;> rfl
  rw [key, key, ht.stampOf_of_ne (Ne.symm hR)]

section
variable {s u v : State} {k h : Nat} (hu : SlotsDispatched s k u)
include hu

theorem SlotsDispatched.slot_here : slotAt u.latchR k = slotAt s.latchR k := by
  rw [hu.slotsR]
  simp

/-- An empty or a pending slot is passed over. -/
theorem SlotsDispatched.skip (hk : ∀ h, slotAt u.latchR k = some h → u.renamed h = false) :
    SlotsDispatched s (k + 1) u := by
  simp only [hu.slot_here, hu.stamped.renamed (by decide)] at hk
  obtain ⟨kept, untaken⟩ : (slotAt s.latchR k).filter (fun h => !s.renamed h) = slotAt s.latchR k ∧
      (slotAt s.latchR k).filter (fun h => s.renamed h) = none := by
    cases hslot : slotAt s.latchR k with
    | none => exact ⟨rfl, rfl⟩
    | some h => simp [Option.filter, hk h hslot]
  have same : s.renamedSlots (k + 1) = s.renamedSlots k := by
    rw [s.renamedSlots_succ, untaken, Option.toList_none, List.append_nil]
  refine ⟨same ▸ hu.stamped, same ▸ hu.rob, same ▸ hu.iq, same ▸ hu.age, hu.rdy, hu.widthR, hu.widthDi, fun i => ?_,
    fun i hi => ?_⟩
  · rw [hu.slotsR]
    by_cases hik : i = k
    · simp [hik, kept]
    · simp only [show i < k + 1 ↔ i < k by omega]
  · rw [hu.slotsDi i hi]
    by_cases hik : i = k
    · simp [hik, untaken]
    · simp only [show i < k + 1 ↔ i < k by omega]

/-- A renamed slot is taken. -/
theorem SlotsDispatched.take (hk : slotAt u.latchR k = some h) (hr : u.renamed h = true)
    (hv : runAt .Di k h u = .next v) : SlotsDispatched s (k + 1) v := by
  rw [hu.stamped.renamed (by decide)] at hr
  have held : slotAt s.latchR k = some h := hu.slot_here ▸ hk
  have taken : s.renamedSlots (k + 1) = s.renamedSlots k ++ [h] := by
    rw [s.renamedSlots_succ, held]
    simp [Option.filter, hr]
  have inR : k < u.latchR.length := lt_length_of_slotAt hk
  have stamped := stampedAll_runAt (by decide) (by decide) hv
  obtain ⟨r, hget, -, rfl⟩ := runAt_eq_next.1 hv
  refine ⟨taken ▸ hu.stamped.trans stamped, ?_, ?_, ?_, hu.rdy, by simp [hu.widthR], by simp [hu.widthDi], fun i => ?_,
    fun i hi => ?_⟩
  · simp [hu.rob, taken]
  · have waits : u.waitsAt h = (rolesOf r.instr).waits := by rw [State.waitsAt, hget]; rfl
    have entry : ((u.focusOn .Di k h).pass r.instr (rolesOf r.instr)).iq = u.iq ++ [u.entryFor h u.iqAgeCounter] := by
      rw [State.entryFor, waits]
      rfl
    have same := hu.stamped.entryFor hu.rdy h u.iqAgeCounter
    rw [hu.age] at same entry
    rw [entry, hu.iq, taken, State.entriesFor_append_singleton, List.append_assoc, same]
  · simp [hu.age, taken, Nat.add_assoc]
  · rw [pass_Di, State.dispatchOne_latchR, State.focusOn_latchR, State.focusOn_focus]
    by_cases hik : i = k
    · rw [slotAt_set_none (.inl hik), hik, held]
      simp [Option.filter, hr]
    · rw [slotAt_set_ne hik, hu.slotsR]
      simp only [show i < k + 1 ↔ i < k by omega]
  · rw [pass_Di, State.dispatchOne_latchDi, State.focusOn_latchDi, State.focusOn_focus,
      slotAt_set _ _ _ (hu.widthDi ▸ hi)]
    by_cases hik : i = k
    · simp [hik, held, Option.filter, hr]
    · rw [if_neg hik, hu.slotsDi i hi]
      simp only [show i < k + 1 ↔ i < k by omega]

end

theorem dispatchStage_slotsDispatched {s t : State} (h : dispatchStage s = .next t) :
    SlotsDispatched s s.config.issueWidth t := by
  have taken := dispatchSlots_keeps (P := SlotsDispatched s) (fun k u hu hk => hu.skip hk)
    (fun k u x v hu hk hr hv => hu.take hk hr hv) _ _ _ _ (slotsDispatched_start s) h
  rwa [Nat.zero_add] at taken

/-- Settles O25: `SlotsDispatched` at the last slot. -/
theorem dispatchTakesEveryRenamedSlot : Obligations.DispatchTakesEveryRenamedSlot := by
  intro s t h
  have taken := dispatchStage_slotsDispatched h
  refine ⟨_, rfl, taken.rob, ?_, ?_, taken.age, fun k hk => ⟨?_, ?_⟩, fun j hj => taken.stamped.stampOf_self hj⟩
  · rw [taken.iq, List.map_append, State.map_instrRef_entriesFor]
    rfl
  · rw [taken.iq, List.map_append, State.map_age_entriesFor]
    rfl
  · rw [taken.slotsR, if_pos hk]
  · rw [taken.slotsDi k hk, if_pos hk]

/-! ### Rename -/

/-- A completed or stalled rename changes no record but its own. -/
theorem renamed_of_runAt_R {s t : State} {k h : Nat} (ht : runAt .R k h s = .next t) {x : Nat} (hx : x ≠ h) :
    t.renamed x = s.renamed x := by
  obtain ⟨r, -, -, ⟨-, -, rfl⟩ | ⟨d, p, rest, -, -, rfl⟩ | ⟨p, -, rfl⟩⟩ := runAt_R_cases ht
  · rfl
  · rw [State.renamed, State.renamed, List.getElem?_set_ne (Ne.symm hx)]
  · rw [State.renamed, State.renamed, List.getElem?_set_ne (Ne.symm hx)]

theorem latches_of_runAt_R {s t : State} {k h : Nat} (ht : runAt .R k h s = .next t) :
    t.latchR = s.latchR ∧ t.latchDc = s.latchDc := by
  obtain ⟨r, -, -, ⟨-, -, rfl⟩ | ⟨d, p, rest, -, -, rfl⟩ | ⟨p, -, rfl⟩⟩ := runAt_R_cases ht <;> exact ⟨rfl, rfl⟩

/-- Rename of the group in `l` has come to slot `k`: the slots on the left are renamed, those from `k` on pending. -/
structure RenamedUpTo (l : List (Option Nat)) (k : Nat) (u : State) : Prop where
  latchR : u.latchR = l
  left : ∀ i < k, ∀ h, slotAt l i = some h → u.renamed h = true
  right : ∀ i ≥ k, ∀ h, slotAt l i = some h → u.renamed h = false

/-- Rename of the group in `l` has stalled: at a slot of a producing instruction, with the free list empty. -/
def StalledAt (l : List (Option Nat)) (u : State) : Prop :=
  ∃ k h, RenamedUpTo l k u ∧ slotAt l k = some h ∧ u.free = [] ∧ u.producesAt h = true

/-- The slots of a latch stand to each other as its instructions do in their list. -/
theorem slotAt_pairwise {l : List (Option Nat)} {R : Nat → Nat → Prop} (hl : (occupied l).Pairwise R) {i j x y : Nat}
    (hij : i < j) (hx : slotAt l i = some x) (hy : slotAt l j = some y) : R x y := by
  rw [occupied, List.reduceOption, List.pairwise_filterMap, List.pairwise_iff_getElem] at hl
  obtain ⟨hi, hx⟩ := List.getElem?_eq_some_iff.1 (slotAt_eq_some.1 hx)
  obtain ⟨hj, hy⟩ := List.getElem?_eq_some_iff.1 (slotAt_eq_some.1 hy)
  exact hl i j hi hj hij x hx y hy

theorem slotAt_inj {l : List (Option Nat)} (hl : (occupied l).Nodup) {i j h : Nat} (hi : slotAt l i = some h)
    (hj : slotAt l j = some h) : i = j := by
  obtain hij | hij | hij := Nat.lt_trichotomy i j
  · exact absurd rfl (slotAt_pairwise hl hij hi hj)
  · exact hij
  · exact absurd rfl (slotAt_pairwise hl hij hj hi)

/-- Rename's loop over a group of distinct pending instructions renames all of it, or up to a stall. -/
theorem renameSlots_renamedUpTo {n : Nat} {s t : State} (hdistinct : (occupied s.latchR).Nodup)
    (hpending : ∀ h ∈ occupied s.latchR, s.renamed h = false) (h : renameSlots n 0 s = .next t) :
    RenamedUpTo s.latchR n t ∨ StalledAt s.latchR t := by
  have start : RenamedUpTo s.latchR 0 s :=
    ⟨rfl, nofun, fun i _ h hi => hpending h (mem_occupied.2 ⟨i, hi⟩)⟩
  have result := renameSlots_keeps (P := RenamedUpTo s.latchR) (Q := StalledAt s.latchR)
    (fun k u hu hk => ?_) (fun k u x v hu hk hr hv hdone => ?_) (fun k u x v hu hk hr hv hpend => ?_) n 0 s t start h
  · rwa [Nat.zero_add] at result
  · refine ⟨hu.latchR, fun i hi y hy => ?_, fun i hi y hy => hu.right i (by omega) y hy⟩
    by_cases hik : i = k
    · exact hk y (hu.latchR ▸ hik ▸ hy)
    · exact hu.left i (by omega) y hy
  · rw [hu.latchR] at hk
    have others : ∀ i y, i ≠ k → slotAt s.latchR i = some y → v.renamed y = u.renamed y := fun i y hik hy =>
      renamed_of_runAt_R hv fun hyx => hik (slotAt_inj hdistinct hy (hyx ▸ hk))
    refine ⟨(latches_of_runAt_R hv).1.trans hu.latchR, fun i hi y hy => ?_, fun i hi y hy => ?_⟩
    · by_cases hik : i = k
      · rw [hik, hk] at hy
        exact Option.some.inj hy ▸ hdone
      · rw [others i y hik hy]
        exact hu.left i (by omega) y hy
    · rw [others i y (by omega) hy]
      exact hu.right i (by omega) y hy
  · rw [hu.latchR] at hk
    obtain ⟨r, hget, -, hp, hf, rfl⟩ := runAt_R_stalls hv hpend
    exact ⟨k, x, ⟨hu.latchR, hu.left, hu.right⟩, hk, hf, by rw [State.producesAt, State.focusOn_recs, hget]; exact hp⟩

theorem takeGroup_latchR (s : State) : s.takeGroup.latchR = if latchEmpty s.latchR then s.latchDc else s.latchR := by
  unfold State.takeGroup
  split <;> rfl

theorem takeGroup_latchDc (s : State) :
    s.takeGroup.latchDc = if latchEmpty s.latchR then emptyLatch s.config.issueWidth else s.latchDc := by
  unfold State.takeGroup
  split <;> rfl

/-- After the advance of the group Rename leaves the latches alone. -/
theorem renameStage_latches {s t : State} (h : renameStage s = .next t) :
    t.latchR = s.takeGroup.latchR ∧ t.latchDc = s.takeGroup.latchDc := by
  have kept : ∀ k (u : State) x v, (u.latchR = s.takeGroup.latchR ∧ u.latchDc = s.takeGroup.latchDc) →
      runAt .R k x u = .next v → v.latchR = s.takeGroup.latchR ∧ v.latchDc = s.takeGroup.latchDc :=
    fun k u x v hu hv => by rwa [(latches_of_runAt_R hv).1, (latches_of_runAt_R hv).2]
  exact (renameSlots_keeps (P := fun _ u => u.latchR = s.takeGroup.latchR ∧ u.latchDc = s.takeGroup.latchDc)
    (Q := fun u => u.latchR = s.takeGroup.latchR ∧ u.latchDc = s.takeGroup.latchDc) (fun _ _ hu _ => hu)
    (fun k u x v hu _ _ hv _ => kept k u x v hu hv) (fun k u x v hu _ _ hv _ => kept k u x v hu hv) _ _ _ _
    ⟨rfl, rfl⟩ h).elim id id

/-- Settles O26: with `RenamedUpTo` at the last slot none is pending; with `StalledAt` the stalled slot is the leftmost
pending one. -/
theorem renameFencesAtTheFirstStall : Obligations.RenameFencesAtTheFirstStall := by
  intro s t hdistinct hwidth hpending h
  obtain ⟨hR, hDc⟩ := renameStage_latches h
  have pending : ∀ x ∈ occupied s.takeGroup.latchR, s.takeGroup.renamed x = false := fun x hx => by
    rw [State.renamed, State.takeGroup_recs]
    exact hpending x hx
  have fenced := renameSlots_renamedUpTo hdistinct pending h
  have below : ∀ k x, slotAt s.takeGroup.latchR k = some x → k < s.config.issueWidth := fun k x hk =>
    hwidth ▸ lt_length_of_slotAt hk
  refine ⟨fun hempty => ?_, fun hfull => ?_, fun k k' x x' hkk hk hk' hx' => ?_, fun k x hk hx hfirst => ?_⟩
  · rw [hR, hDc, takeGroup_latchR, takeGroup_latchDc, if_pos hempty, if_pos hempty]
    exact ⟨rfl, latchEmpty_emptyLatch _⟩
  · rw [hR, hDc, takeGroup_latchR, takeGroup_latchDc, hfull]
    exact ⟨rfl, rfl⟩
  · rw [hR] at hk hk'
    obtain all | ⟨m, y, upTo, -⟩ := fenced
    · exact all.left k (below k x hk) x hk
    · by_cases hm : k' < m
      · exact upTo.left k (by omega) x hk
      · rw [upTo.right k' (Nat.not_lt.1 hm) x' hk'] at hx'
        cases hx'
  · rw [hR] at hk hfirst
    obtain all | ⟨m, y, upTo, hm, hfree, hp⟩ := fenced
    · rw [all.left k (below k x hk) x hk] at hx
      cases hx
    · obtain hkm | rfl | hkm := Nat.lt_trichotomy k m
      · rw [upTo.left k hkm x hk] at hx
        cases hx
      · rw [hk] at hm
        exact ⟨hfree, Option.some.inj hm ▸ hp⟩
      · have done := hfirst m y hkm hm
        rw [upTo.right m le_rfl y hm] at done
        cases done

end Sys2Proof.Machine

/-! # Latches as lists (48_invariants.md R221)

A left-packed or contiguous latch is a list of instructions between empty slots; a filter of the slots is a filter of the
instructions; and in a sorted list a downward closed part stands at the front. -/

namespace Sys2Proof.Machine

open Sys2Proof

/-! ### Packed latches -/

@[simp] theorem occupied_append (l m : List (Option Nat)) : occupied (l ++ m) = occupied l ++ occupied m :=
  List.reduceOption_append l m

@[simp] theorem occupied_map_some (L : List Nat) : occupied (L.map some) = L := by
  induction L with
  | nil => rfl
  | cons x L ih =>
    rw [List.map_cons, occupied, List.reduceOption_cons_of_some]
    exact congrArg (x :: ·) ih

theorem leftPacked_iff {l : List (Option Nat)} :
    leftPacked l ↔ ∃ (L : List Nat) (n : Nat), l = L.map some ++ emptyLatch n := by
  refine ⟨fun h => ⟨_, _, h⟩, ?_⟩
  rintro ⟨L, n, rfl⟩
  have held : occupied (L.map some ++ emptyLatch n) = L := by simp
  rw [leftPacked, held]
  simp

theorem contiguous_iff {l : List (Option Nat)} :
    contiguous l ↔ ∃ (m : Nat) (L : List Nat) (n : Nat), l = emptyLatch m ++ (L.map some ++ emptyLatch n) := by
  constructor
  · intro h
    obtain ⟨L, n, hL⟩ := leftPacked_iff.1 h
    have front : l.takeWhile Option.isNone = emptyLatch (l.takeWhile Option.isNone).length :=
      List.eq_replicate_iff.2 ⟨rfl, fun x hx => Option.isNone_iff_eq_none.1 (List.mem_takeWhile_imp hx)⟩
    refine ⟨(l.takeWhile Option.isNone).length, L, n, ?_⟩
    rw [← front, ← hL, List.takeWhile_append_dropWhile]
  · rintro ⟨m, L, n, rfl⟩
    have skipped : (emptyLatch m ++ (L.map some ++ emptyLatch n)).dropWhile Option.isNone =
        (L.map some ++ emptyLatch n).dropWhile Option.isNone :=
      List.dropWhile_append_of_pos fun x hx => by rw [List.eq_of_mem_replicate hx]; rfl
    rw [contiguous, skipped, leftPacked_iff]
    cases L with
    | nil =>
      refine ⟨[], 0, ?_⟩
      rw [List.map_nil, List.nil_append,
        List.dropWhile_eq_nil_iff.2 fun x hx => by rw [List.eq_of_mem_replicate hx]; rfl]
      rfl
    | cons x L => exact ⟨x :: L, n, rfl⟩

theorem contiguous_of_leftPacked {l : List (Option Nat)} (h : leftPacked l) : contiguous l := by
  obtain ⟨L, n, hl⟩ := leftPacked_iff.1 h
  exact contiguous_iff.2 ⟨0, L, n, hl⟩

theorem leftPacked_emptyLatch (n : Nat) : leftPacked (emptyLatch n) := leftPacked_iff.2 ⟨[], n, rfl⟩

theorem occupied_eq_nil_of_latchEmpty {l : List (Option Nat)} (h : latchEmpty l = true) : occupied l = [] :=
  List.eq_nil_iff_forall_not_mem.2 fun x hx => by
    obtain ⟨k, hk⟩ := mem_occupied.1 hx
    rw [slotAt_of_latchEmpty h] at hk
    cases hk

theorem latchEmpty_of_occupied_eq_nil {l : List (Option Nat)} (h : occupied l = []) : latchEmpty l = true :=
  latchEmpty_of_slotAt fun k => Option.eq_none_iff_forall_ne_some.2 fun x hx => by
    have := mem_occupied.2 ⟨k, hx⟩
    rw [h] at this
    cases this

theorem latchEmpty_eq_false_iff {l : List (Option Nat)} : latchEmpty l = false ↔ occupied l ≠ [] :=
  ⟨fun h hnil => by simp [latchEmpty_of_occupied_eq_nil hnil] at h,
    fun h => Bool.eq_false_iff.2 fun hempty => h (occupied_eq_nil_of_latchEmpty hempty)⟩

/-! ### Filtered latches -/

theorem occupied_map_filter (l : List (Option Nat)) (f : Nat → Bool) :
    occupied (l.map (Option.filter f)) = (occupied l).filter f := by
  induction l with
  | nil => rfl
  | cons x l ih =>
    cases x with
    | none => exact ih
    | some x =>
      rw [List.map_cons, occupied, occupied, List.reduceOption_cons_of_some, Option.filter]
      cases hx : f x with
      | true =>
        rw [if_pos rfl, List.reduceOption_cons_of_some, List.filter_cons_of_pos hx]
        exact congrArg (x :: ·) ih
      | false =>
        rw [if_neg (by decide), List.reduceOption_cons_of_none, List.filter_cons_of_neg (by simp [hx])]
        exact ih

/-- A latch of filtered slots, slot by slot. -/
theorem eq_map_filter_of_slotAt {l m : List (Option Nat)} {f : Nat → Bool} (hlen : m.length = l.length)
    (hslot : ∀ i < l.length, slotAt m i = (slotAt l i).filter f) : m = l.map (Option.filter f) := by
  refine latch_ext (by simpa using hlen) fun i hi => ?_
  rw [hslot i (hlen ▸ hi), slotAt, slotAt, List.getElem?_map]
  have inLatch : i < l.length := hlen ▸ hi
  rw [List.getElem?_eq_getElem inLatch]
  cases l[i] <;> rfl

/-- The instructions in the slots, read by their index. -/
theorem filterMap_range_slotAt (l : List (Option Nat)) :
    (List.range l.length).filterMap (fun i => slotAt l i) = occupied l := by
  have slots : (List.range l.length).map (fun i => slotAt l i) = l := by
    refine List.ext_getElem (by simp) fun i hi hl => ?_
    simp only [List.getElem_map, List.getElem_range, slotAt, List.getElem?_eq_getElem hl]
    rfl
  conv_rhs => rw [← slots, occupied, List.reduceOption, List.filterMap_map]
  rfl

theorem filterMap_range_filter_slotAt (l : List (Option Nat)) (f : Nat → Bool) :
    (List.range l.length).filterMap (fun i => (slotAt l i).filter f) = (occupied l).filter f := by
  rw [← occupied_map_filter, ← filterMap_range_slotAt, List.length_map]
  refine List.filterMap_congr fun i hi => ?_
  rw [slotAt, slotAt, List.getElem?_map]
  cases l[i]? with
  | none => rfl
  | some x => cases x <;> rfl

/-- In a sorted list a downward closed part stands at the front. -/
theorem filter_append_filter_not {L : List Nat} {f : Nat → Bool} (hsorted : L.Pairwise (· < ·))
    (hdown : ∀ i j, i ∈ L → i < j → f j = true → f i = true) : L.filter f ++ L.filter (fun x => !f x) = L := by
  induction L with
  | nil => rfl
  | cons x L ih =>
    obtain ⟨hx, hL⟩ := List.pairwise_cons.1 hsorted
    cases hf : f x with
    | true =>
      rw [List.filter_cons_of_pos hf, List.filter_cons_of_neg (by simp [hf]), List.cons_append,
        ih hL fun i j hi => hdown i j (List.mem_cons_of_mem x hi)]
    | false =>
      have out : ∀ y ∈ x :: L, f y = false := fun y hy => by
        obtain rfl | hy := List.mem_cons.1 hy
        · exact hf
        · refine Bool.eq_false_iff.2 fun hfy => ?_
          rw [hdown x y List.mem_cons_self (hx y hy) hfy] at hf
          cases hf
      rw [List.filter_eq_nil_iff.2 fun y hy => by simp [out y hy], List.nil_append,
        List.filter_eq_self.2 fun y hy => by simp [out y hy]]

/-- A contiguous latch stays so when a part at the front is taken out of it. -/
theorem contiguous_map_filter {l : List (Option Nat)} {f : Nat → Bool} (hl : contiguous l)
    (hfront : (occupied l).filter (fun x => !f x) ++ (occupied l).filter f = occupied l) :
    contiguous (l.map (Option.filter f)) := by
  obtain ⟨m, L, n, rfl⟩ := contiguous_iff.1 hl
  have held : occupied (emptyLatch m ++ (L.map some ++ emptyLatch n)) = L := by simp
  rw [held] at hfront
  have none_left : ∀ k, (emptyLatch k).map (Option.filter f) = emptyLatch k := fun k => by
    rw [emptyLatch, List.map_replicate]
    rfl
  have taken : ((L.filter fun x => !f x).map some).map (Option.filter f) =
      emptyLatch (L.filter fun x => !f x).length := by
    rw [List.map_map]
    refine List.eq_replicate_iff.2 ⟨by simp, fun x hx => ?_⟩
    obtain ⟨y, hy, rfl⟩ := List.mem_map.1 hx
    have := List.of_mem_filter hy
    simp_all [Option.filter]
  have kept : ((L.filter f).map some).map (Option.filter f) = (L.filter f).map some := by
    rw [List.map_map]
    refine List.map_congr_left fun y hy => ?_
    simp [Option.filter, List.of_mem_filter hy]
  refine contiguous_iff.2 ⟨m + (L.filter fun x => !f x).length, L.filter f, n, ?_⟩
  conv_lhs => rw [← hfront]
  rw [List.map_append, List.map_append, List.map_append, List.map_append, none_left, none_left, taken, kept, emptyLatch,
    emptyLatch, emptyLatch, emptyLatch, ← List.replicate_append_replicate, List.append_assoc, List.append_assoc]

/-! ### Ranges -/

/-- The two parts of a range. -/
theorem range'_of_append {L M : List Nat} {a n : Nat} (h : L ++ M = List.range' a n) :
    L = List.range' a L.length ∧ M = List.range' (a + L.length) (n - L.length) ∧ L.length ≤ n := by
  have hlen : L.length + M.length = n := by simpa using congrArg List.length h
  have split : List.range' a L.length ++ List.range' (a + L.length) (n - L.length) = List.range' a n := by
    rw [List.range'_append_1, show L.length + (n - L.length) = n by omega]
  obtain ⟨hL, hM⟩ := List.append_inj (h.trans split.symm) (by simp)
  exact ⟨hL, hM, by omega⟩

end Sys2Proof.Machine

/-! # Program order and places, stage by stage (48_invariants.md sections 3 and 4)

`Ordered` is kept by every stage of a tick. Which stages an instruction has passed changes for one stage at a time
(`PassedMore`), and for the instructions that the stage takes. -/

namespace Sys2Proof.Machine

open Sys2Proof

/-! ### Passed stages -/

/-- The stage before. -/
def Stage.before : Stage → Option Stage
  | .F => none
  | .Dc => some .F
  | .R => some .Dc
  | .Di => some .R
  | .IS => some .Di
  | .W => some .IS
  | .C => some .W

theorem stagesNested_iff {s : State} {j : Nat} :
    StagesNested s j ↔ ∀ st, ∀ y ∈ st.before, s.passed st j → s.passed y j := by
  constructor
  · rintro ⟨hDi, hR, hDc, hIS, hW, hC⟩ st y hy
    cases st <;> cases hy <;> assumption
  · exact fun h => ⟨h .Di .R rfl, h .R .Dc rfl, h .Dc .F rfl, h .IS .Di rfl, h .W .IS rfl, h .C .W rfl⟩

/-- In `t` the instructions of `hs` have passed stage `st` besides all that is passed in `s`. -/
structure PassedMore (st : Stage) (hs : List Nat) (s t : State) : Prop where
  count : t.count = s.count
  passed : ∀ x, ∀ j < s.count, t.passed x j ↔ s.passed x j ∨ x = st ∧ j ∈ hs

section
variable {st : Stage} {hs : List Nat} {s t : State}

theorem StampedAll.passedMore (ht : StampedAll st hs s t) : PassedMore st hs s t where
  count := ht.count
  passed x j hj := by
    rw [State.passed, ht.stampOf]
    by_cases hx : x = st ∧ j ∈ hs
    · rw [if_pos ⟨hx.1, hx.2, hj⟩]
      simp [hx]
    · rw [if_neg fun h => hx ⟨h.1, h.2.1⟩]
      simp [hx]

variable (ht : PassedMore st hs s t)
include ht

theorem PassedMore.of_ne {x : Stage} (hx : x ≠ st) {j : Nat} (hj : j < s.count) : t.passed x j ↔ s.passed x j := by
  rw [ht.passed x j hj]
  simp [hx]

theorem PassedMore.self {j : Nat} (hj : j < s.count) : t.passed st j ↔ s.passed st j ∨ j ∈ hs := by
  rw [ht.passed st j hj]
  simp

theorem PassedMore.nested {j : Nat} (hj : j < s.count) (hn : StagesNested s j)
    (hnew : j ∈ hs → ∀ y ∈ st.before, s.passed y j) : StagesNested t j := by
  rw [stagesNested_iff] at hn ⊢
  intro x y hy hp
  refine (ht.passed y j hj).2 (.inl ?_)
  obtain hp | ⟨rfl, hmem⟩ := (ht.passed x j hj).1 hp
  · exact hn x y hy hp
  · exact hnew hmem y hy

end

/-! ### Where the instructions of an ordered state are -/

section
variable {s : State} (hs : Ordered s)
include hs

theorem Ordered.rob_instrRef {e : ROBEntry} (he : e ∈ s.rob) :
    s.completedCount ≤ e.instrRef ∧ e.instrRef < s.iqAgeCounter := by
  obtain ⟨hc, -, -⟩ := hs.counters
  have := List.mem_range'_1.1 (hs.rob.1 ▸ List.mem_map_of_mem (f := ROBEntry.instrRef) he)
  omega

/-- The latches hold consecutive parts of the fetched and not dispatched instructions. -/
theorem Ordered.latch_ranges :
    occupied s.latchR = List.range' s.iqAgeCounter (occupied s.latchR).length ∧
    occupied s.latchDc = List.range' (s.iqAgeCounter + (occupied s.latchR).length) (occupied s.latchDc).length ∧
    occupied s.latchF = List.range' (s.iqAgeCounter + (occupied s.latchR).length + (occupied s.latchDc).length)
      (occupied s.latchF).length ∧
    s.iqAgeCounter + (occupied s.latchR).length + (occupied s.latchDc).length + (occupied s.latchF).length =
      s.fetchOffset := by
  obtain ⟨-, hfetched, -⟩ := hs.counters
  have hall := hs.latches.1
  have hlen := congrArg List.length hall
  simp only [List.length_append, List.length_range'] at hlen
  obtain ⟨hRDc, hF, -⟩ := range'_of_append hall
  obtain ⟨hR, hDc, -⟩ := range'_of_append hRDc
  rw [List.length_append] at hF hDc
  refine ⟨hR, ?_, ?_, by omega⟩
  · rwa [Nat.add_sub_cancel_left] at hDc
  · rwa [← Nat.add_assoc,
      show s.fetchOffset - s.iqAgeCounter - ((occupied s.latchR).length + (occupied s.latchDc).length) =
      (occupied s.latchF).length by omega] at hF

theorem Ordered.mem_latchR {j : Nat} :
    j ∈ occupied s.latchR ↔ s.iqAgeCounter ≤ j ∧ j < s.iqAgeCounter + (occupied s.latchR).length := by
  conv_lhs => rw [hs.latch_ranges.1]
  rw [List.mem_range'_1]

theorem Ordered.mem_latchDc {j : Nat} :
    j ∈ occupied s.latchDc ↔ s.iqAgeCounter + (occupied s.latchR).length ≤ j ∧
      j < s.iqAgeCounter + (occupied s.latchR).length + (occupied s.latchDc).length := by
  conv_lhs => rw [hs.latch_ranges.2.1]
  rw [List.mem_range'_1]

theorem Ordered.mem_latchF {j : Nat} :
    j ∈ occupied s.latchF ↔ s.iqAgeCounter + (occupied s.latchR).length + (occupied s.latchDc).length ≤ j ∧
      j < s.fetchOffset := by
  obtain ⟨-, -, hF, hsum⟩ := hs.latch_ranges
  conv_lhs => rw [hF]
  rw [List.mem_range'_1, hsum]

theorem Ordered.fetchOffset_le : s.fetchOffset ≤ s.count := hs.counters.2.2

theorem Ordered.passed_F {j : Nat} (hj : j < s.count) : s.passed .F j ↔ j < s.fetchOffset := (hs.front j hj).1

theorem Ordered.passed_Dc {j : Nat} (hj : j < s.count) :
    s.passed .Dc j ↔ j < s.fetchOffset ∧ j ∉ occupied s.latchF := (hs.front j hj).2.1

theorem Ordered.of_passed_R {j : Nat} (hj : j < s.count) :
    s.passed .R j → j < s.iqAgeCounter ∨ j ∈ occupied s.latchR := (hs.front j hj).2.2.1

theorem Ordered.passed_Di {j : Nat} (hj : j < s.count) : s.passed .Di j ↔ j < s.iqAgeCounter := (hs.front j hj).2.2.2.1

theorem Ordered.passed_C {j : Nat} (hj : j < s.count) : s.passed .C j ↔ j < s.completedCount :=
  (hs.front j hj).2.2.2.2.1

theorem Ordered.fetchIndex {j : Nat} (hj : j < s.count) :
    (s.recs[j]?).bind Record.fetchIndex = if j < s.fetchOffset then some j else none := (hs.front j hj).2.2.2.2.2

/-- An earlier stage of the life of an instruction is passed with a later one. -/
theorem Ordered.passed_before {j : Nat} (hj : j < s.count) {st y : Stage} (hy : y ∈ st.before) (hp : s.passed st j) :
    s.passed y j := stagesNested_iff.1 (hs.nested j hj) st y hy hp

theorem Ordered.dispatched_of_issued {j : Nat} (hj : j < s.count) (hp : s.passed .IS j) : j < s.iqAgeCounter :=
  (hs.passed_Di hj).1 (hs.passed_before hj rfl hp)

theorem Ordered.issued_of_written {j : Nat} (hj : j < s.count) (hp : s.passed .W j) : s.passed .IS j :=
  hs.passed_before hj rfl hp

theorem Ordered.mem_iq {j : Nat} (hj : j < s.count) :
    j ∈ s.iq.map IQEntry.instrRef ↔ s.passed .Di j ∧ ¬ s.passed .IS j := (hs.inQueues j hj).1

theorem Ordered.mem_wbq {j : Nat} (hj : j < s.count) : j ∈ s.wbq ↔ s.passed .IS j ∧ ¬ s.passed .W j :=
  (hs.inQueues j hj).2

end

/-- The fetch index is no stamp. -/
theorem StampedAll.fetchIndex {st : Stage} {hs : List Nat} {s t : State} (ht : StampedAll st hs s t) (j : Nat) :
    (t.recs[j]?).bind Record.fetchIndex = (s.recs[j]?).bind Record.fetchIndex :=
  ht.bind_recs (fun _ _ => rfl) j

/-- Handles that name records of `s` name records of `t`. -/
theorem handlesInRange_of_count_eq {s t : State} (hc : t.count = s.count) (hiq : ∀ e ∈ t.iq, e.instrRef < s.count)
    (hwbq : ∀ h ∈ t.wbq, h < s.count) : HandlesInRange t :=
  ⟨fun e he => (hiq e he).trans_eq hc.symm, fun h hh => (hwbq h hh).trans_eq hc.symm⟩

theorem PassedMore.renamedInOrder {st : Stage} {hs : List Nat} {s t : State} (ht : PassedMore st hs s t) (hR : st ≠ .R)
    (h : RenamedInOrder s) : RenamedInOrder t := by
  intro j hj hp i hi
  rw [ht.count] at hj
  exact (ht.of_ne hR.symm (hi.trans hj)).2 (h j hj ((ht.of_ne hR.symm hj).1 hp) i hi)

/-- The entries of the reorder buffer say the same after a stage other than Writeback. -/
theorem Ordered.rob_entries_of_ne {st : Stage} {hs : List Nat} {s t : State} (hord : Ordered s)
    (ht : PassedMore st hs s t) (hW : st ≠ .W) :
    ∀ e ∈ s.rob, e.committed = false ∧ (e.ready = true ↔ t.passed .W e.instrRef) := by
  intro e he
  have := hord.rob_instrRef he
  have := hord.counters
  obtain ⟨hfalse, hready⟩ := hord.rob.2 e he
  exact ⟨hfalse, hready.trans (ht.of_ne hW.symm (by omega)).symm⟩

/-! ### Commit -/

/-- The entries that Commit takes are ready. -/
theorem ready_of_mem_take {rob : List ROBEntry} {n : Nat} {e : ROBEntry}
    (he : e ∈ rob.take (min n (rob.takeWhile ROBEntry.ready).length)) : e ∈ rob ∧ e.ready = true := by
  refine ⟨List.mem_of_mem_take he, ?_⟩
  induction rob generalizing n with
  | nil => simp at he
  | cons x rob ih =>
    by_cases hx : x.ready = true
    · rw [List.takeWhile_cons_of_pos hx] at he
      cases n with
      | zero => simp at he
      | succ n =>
        rw [List.length_cons, Nat.succ_min_succ, List.take_succ_cons] at he
        obtain rfl | he := List.mem_cons.1 he
        · exact hx
        · exact ih he
    · rw [List.takeWhile_cons_of_neg hx] at he
      simp at he

/-- The first `k` entries of the reorder buffer and the others name consecutive instructions. -/
theorem Ordered.rob_take_drop {s : State} (hs : Ordered s) {k : Nat} (hk : k ≤ s.rob.length) :
    (s.rob.take k).map ROBEntry.instrRef = List.range' s.completedCount k ∧
    (s.rob.drop k).map ROBEntry.instrRef =
      List.range' (s.completedCount + k) (s.iqAgeCounter - (s.completedCount + k)) ∧
    s.completedCount + k ≤ s.iqAgeCounter := by
  obtain ⟨hcommitted, -, -⟩ := hs.counters
  have hall := hs.rob.1
  have hlen : s.rob.length = s.iqAgeCounter - s.completedCount := by simpa using congrArg List.length hall
  rw [← List.take_append_drop k s.rob, List.map_append] at hall
  obtain ⟨htake, hdrop, -⟩ := range'_of_append hall
  rw [List.length_map, List.length_take_of_le hk] at htake hdrop
  exact ⟨htake, by rw [hdrop, Nat.sub_sub], by omega⟩

theorem Ordered.commitStage {s t : State} (hs : Ordered s) (h : commitStage s = .next t) : Ordered t := by
  have retired := commitWalk_retired h
  generalize hk : min s.config.issueWidth (s.rob.takeWhile ROBEntry.ready).length = k at retired
  have ready : ∀ e ∈ s.rob.take k, e ∈ s.rob ∧ e.ready = true := fun e he => ready_of_mem_take (hk ▸ he)
  have hkle : k ≤ s.rob.length := by
    have := (List.takeWhile_sublist ROBEntry.ready (l := s.rob)).length_le
    omega
  obtain ⟨htake, hdrop, hdispatched⟩ := hs.rob_take_drop hkle
  have frame := commitStage_frame h
  obtain ⟨recs, free, rdy, rob, completed, f, rfl⟩ : ∃ recs free rdy rob completed f, t = { s with
      recs := recs, free := free, rdy := rdy, rob := rob, completedCount := completed, focus := f } :=
    ⟨_, _, _, _, _, _, frame⟩
  obtain ⟨stamped, hrob, hcompleted, -⟩ := retired
  simp only at hrob hcompleted
  subst hrob hcompleted
  have more := stamped.passedMore
  rw [htake] at more
  have written : ∀ j ∈ List.range' s.completedCount k, s.passed .W j := fun j hj => by
    obtain ⟨e, he, rfl⟩ := List.mem_map.1 (htake ▸ hj)
    obtain ⟨hmem, hready⟩ := ready e he
    exact (hs.rob.2 e hmem).2.1 hready
  refine
    { counters := ⟨hdispatched, hs.counters.2.1, hs.fetchOffset_le.trans_eq more.count.symm⟩
      rob := ⟨hdrop, fun e he => hs.rob_entries_of_ne more (by decide) e (List.mem_of_mem_drop he)⟩
      latches := hs.latches
      queues := hs.queues
      handles := handlesInRange_of_count_eq more.count hs.handles.1 hs.handles.2
      renames := more.renamedInOrder (by decide) hs.renames
      nested := fun j hj => ?_
      front := fun j hj => ?_
      inQueues := fun j hj => ?_ }
  · rw [more.count] at hj
    exact more.nested hj (hs.nested j hj) fun hmem y hy => by cases hy; exact written j hmem
  · rw [more.count] at hj
    refine ⟨(more.of_ne (by decide) hj).trans (hs.passed_F hj), (more.of_ne (by decide) hj).trans (hs.passed_Dc hj),
      fun hp => hs.of_passed_R hj ((more.of_ne (by decide) hj).1 hp),
      (more.of_ne (by decide) hj).trans (hs.passed_Di hj), (more.self hj).trans ?_,
      (stamped.fetchIndex j).trans (hs.fetchIndex hj)⟩
    rw [hs.passed_C hj, List.mem_range'_1]
    exact show _ ↔ j < s.completedCount + k by omega
  · rw [more.count] at hj
    rw [PlacedInQueues, more.of_ne (by decide) hj, more.of_ne (by decide) hj, more.of_ne (by decide) hj]
    exact hs.inQueues j hj

/-! ### Writeback -/

theorem mem_markAllReady {hs : List Nat} {rob : List ROBEntry} {e : ROBEntry} (he : e ∈ markAllReady hs rob) :
    ∃ e' ∈ rob, e.instrRef = e'.instrRef ∧ e.committed = e'.committed ∧
      (e.ready = true ↔ e'.ready = true ∨ e'.instrRef ∈ hs) := by
  obtain ⟨e', he', rfl⟩ := List.mem_map.1 he
  refine ⟨e', he', ?_⟩
  split
  · next hm => simp [hm]
  · next hm => simp [hm]

theorem map_instrRef_markAllReady (hs : List Nat) (rob : List ROBEntry) :
    (markAllReady hs rob).map ROBEntry.instrRef = rob.map ROBEntry.instrRef := by
  rw [markAllReady, List.map_map]
  refine List.map_congr_left fun e _ => ?_
  rw [Function.comp_apply]
  split <;> rfl

theorem Ordered.writebackStage {s t : State} (hs : Ordered s) (h : writebackStage s = .next t) :
    Ordered t ∧ t.wbq = [] := by
  have drained := writebackStage_drained hs.queues.2.2.2 h
  have frame := writebackStage_frame h
  obtain ⟨recs, wbq, rob, rdy, tags, f, rfl⟩ : ∃ recs wbq rob rdy tags f, t = { s with
      recs := recs, wbq := wbq, rob := rob, rdy := rdy, wbTags := tags, focus := f } :=
    ⟨_, _, _, _, _, _, frame⟩
  obtain ⟨stamped, hwbq, hrob, -, -⟩ := drained
  rw [List.take_length] at stamped hrob
  rw [List.drop_length] at hwbq
  simp only at hwbq hrob
  subst hwbq hrob
  have more := stamped.passedMore
  have inTable : ∀ e ∈ s.rob, e.instrRef < s.count := fun e he => by
    have := hs.rob_instrRef he
    have := hs.counters
    omega
  refine ⟨
    { counters := ⟨hs.counters.1, hs.counters.2.1, hs.fetchOffset_le.trans_eq more.count.symm⟩
      rob := ⟨(map_instrRef_markAllReady _ _).trans hs.rob.1, fun e he => ?_⟩
      latches := hs.latches
      queues := ⟨hs.queues.1, hs.queues.2.1, List.Pairwise.nil, Nat.zero_le _⟩
      handles := handlesInRange_of_count_eq more.count hs.handles.1 nofun
      renames := more.renamedInOrder (by decide) hs.renames
      nested := fun j hj => ?_
      front := fun j hj => ?_
      inQueues := fun j hj => ?_ }, rfl⟩
  · obtain ⟨e', he', href, hcommitted, hready⟩ := mem_markAllReady he
    obtain ⟨hfalse, hready'⟩ := hs.rob.2 e' he'
    exact ⟨hcommitted.trans hfalse, by rw [hready, hready', href, more.self (inTable e' he')]⟩
  · rw [more.count] at hj
    exact more.nested hj (hs.nested j hj) fun hmem y hy => by cases hy; exact ((hs.mem_wbq hj).1 hmem).1
  · rw [more.count] at hj
    exact ⟨(more.of_ne (by decide) hj).trans (hs.passed_F hj), (more.of_ne (by decide) hj).trans (hs.passed_Dc hj),
      fun hp => hs.of_passed_R hj ((more.of_ne (by decide) hj).1 hp),
      (more.of_ne (by decide) hj).trans (hs.passed_Di hj), (more.of_ne (by decide) hj).trans (hs.passed_C hj),
      (stamped.fetchIndex j).trans (hs.fetchIndex hj)⟩
  · rw [more.count] at hj
    rw [PlacedInQueues, more.of_ne (by decide) hj, more.of_ne (by decide) hj, more.self hj, hs.mem_wbq hj]
    refine ⟨hs.mem_iq hj, by simp, fun ⟨hIS, hnot⟩ => ?_⟩
    exact absurd (Decidable.em (s.passed .W j)) fun hor => hor.elim (fun hW => hnot (.inl hW))
      fun hW => hnot (.inr ⟨hIS, hW⟩)

/-! ### Issue -/

theorem Ordered.iq_ages_nodup {s : State} (hs : Ordered s) : (s.iq.map IQEntry.age).Nodup :=
  hs.queues.1.imp fun h => Nat.ne_of_lt h

/-- The selected instructions are in the issue queue, in program order, and at most `W`. -/
theorem Ordered.selected {s : State} (hs : Ordered s) :
    (∀ j ∈ s.selected.map IQEntry.instrRef, j ∈ s.iq.map IQEntry.instrRef) ∧
    (s.selected.map IQEntry.instrRef).Pairwise (· < ·) ∧
    (s.selected.map IQEntry.instrRef).length ≤ s.config.issueWidth := by
  have inQueue : ∀ e ∈ s.selected, e ∈ s.iq := fun e he => (State.mem_iq_of_mem_selected he).1
  have ages : s.selected.map IQEntry.age = s.selected.map IQEntry.instrRef :=
    List.map_congr_left fun e he => hs.queues.2.1 e (inQueue e he)
  refine ⟨fun j hj => ?_, ages ▸ State.selected_ages_lt hs.iq_ages_nodup, ?_⟩
  · obtain ⟨e, he, rfl⟩ := List.mem_map.1 hj
    exact List.mem_map_of_mem (inQueue e he)
  · rw [List.length_map, s.length_selected]
    exact Nat.min_le_left _ _

/-- The queue after Issue: the entries that were not selected, woken but named and aged as before. -/
theorem issueStage_iq {s t : State} (h : issueStage s = .next t) :
    StampedAll .IS (s.selected.map IQEntry.instrRef) s t ∧
    ∀ x ∈ t.iq, ∃ e ∈ s.iq, e.instrRef ∉ s.selected.map IQEntry.instrRef ∧ x.instrRef = e.instrRef ∧ x.age = e.age := by
  obtain ⟨u, ⟨stamped, hiq, -⟩, rfl⟩ := issueStage_issuedEntries h
  refine ⟨stamped.of_recs_eq rfl rfl, fun x hx => ?_⟩
  obtain ⟨e, he, rfl⟩ := List.mem_map.1 hx
  rw [hiq, List.mem_filter, decide_eq_true_iff] at he
  exact ⟨e, he.1, he.2, wakeEntry_instrRef _ _ e, wakeEntry_age _ _ e⟩

/-- The ages and the names in the queue after Issue are those of the entries that were not selected. -/
theorem issueStage_iq_maps {s t : State} (h : issueStage s = .next t) :
    t.iq.map IQEntry.age =
      (s.iq.filter fun e => decide (e.instrRef ∉ s.selected.map IQEntry.instrRef)).map IQEntry.age ∧
    t.iq.map IQEntry.instrRef =
      (s.iq.filter fun e => decide (e.instrRef ∉ s.selected.map IQEntry.instrRef)).map IQEntry.instrRef := by
  obtain ⟨u, ⟨-, hiq, -⟩, rfl⟩ := issueStage_issuedEntries h
  rw [State.wakeup_iq, List.map_map, List.map_map, ← hiq]
  exact ⟨List.map_congr_left fun e _ => wakeEntry_age _ _ e, List.map_congr_left fun e _ => wakeEntry_instrRef _ _ e⟩

theorem Ordered.issueStage {s t : State} (hs : Ordered s) (hq : s.wbq = []) (h : issueStage s = .next t) :
    Ordered t := by
  obtain ⟨inQueue, sorted, few⟩ := hs.selected
  have hwbq := (issueStage_issued h).wbq
  obtain ⟨stamped, entries⟩ := issueStage_iq h
  obtain ⟨ages, refs⟩ := issueStage_iq_maps h
  have frame := issueStage_frame h
  obtain ⟨recs, iq, wbq, tags, f, rfl⟩ : ∃ recs iq wbq tags f, t = { s with
      recs := recs, iq := iq, wbq := wbq, isTags := tags, focus := f } := ⟨_, _, _, _, _, frame⟩
  rw [hq, List.nil_append] at hwbq
  simp only at hwbq ages refs
  subst hwbq
  have more := stamped.passedMore
  have selected_lt : ∀ j ∈ s.selected.map IQEntry.instrRef, j < s.count := fun j hj => by
    obtain ⟨e, he, rfl⟩ := List.mem_map.1 (inQueue j hj)
    exact hs.handles.1 e he
  refine
    { counters := ⟨hs.counters.1, hs.counters.2.1, hs.fetchOffset_le.trans_eq more.count.symm⟩
      rob := ⟨hs.rob.1, hs.rob_entries_of_ne more (by decide)⟩
      latches := hs.latches
      queues := ⟨?_, fun x hx => ?_, sorted, few⟩
      handles := handlesInRange_of_count_eq more.count (fun x hx => ?_) selected_lt
      renames := more.renamedInOrder (by decide) hs.renames
      nested := fun j hj => ?_
      front := fun j hj => ?_
      inQueues := fun j hj => ?_ }
  · exact ages ▸ hs.queues.1.sublist (List.filter_sublist.map _)
  · obtain ⟨e, he, -, href, hage⟩ := entries x hx
    rw [href, hage, hs.queues.2.1 e he]
  · obtain ⟨e, he, -, href, -⟩ := entries x hx
    exact href ▸ hs.handles.1 e he
  · rw [more.count] at hj
    exact more.nested hj (hs.nested j hj) fun hmem y hy => by cases hy; exact ((hs.mem_iq hj).1 (inQueue j hmem)).1
  · rw [more.count] at hj
    exact ⟨(more.of_ne (by decide) hj).trans (hs.passed_F hj), (more.of_ne (by decide) hj).trans (hs.passed_Dc hj),
      fun hp => hs.of_passed_R hj ((more.of_ne (by decide) hj).1 hp),
      (more.of_ne (by decide) hj).trans (hs.passed_Di hj), (more.of_ne (by decide) hj).trans (hs.passed_C hj),
      (stamped.fetchIndex j).trans (hs.fetchIndex hj)⟩
  · rw [more.count] at hj
    have left : j ∈ iq.map IQEntry.instrRef ↔
        j ∈ s.iq.map IQEntry.instrRef ∧ j ∉ s.selected.map IQEntry.instrRef := by
      rw [refs, List.mem_map, List.mem_map]
      constructor
      · rintro ⟨e, he, rfl⟩
        rw [List.mem_filter, decide_eq_true_iff] at he
        exact ⟨⟨e, he.1, rfl⟩, he.2⟩
      · rintro ⟨⟨e, he, rfl⟩, hout⟩
        exact ⟨e, List.mem_filter.2 ⟨he, decide_eq_true hout⟩, rfl⟩
    have waiting := hs.mem_iq hj
    have noneWaits := hs.mem_wbq hj
    have fromQueue := inQueue j
    have issuedFirst := hs.issued_of_written hj
    rw [hq] at noneWaits
    rw [PlacedInQueues, left, more.of_ne (x := .Di) (by decide) hj, more.of_ne (x := .W) (by decide) hj, more.self hj,
      waiting, not_or, and_assoc]
    simp only [List.not_mem_nil, false_iff] at noneWaits
    refine ⟨Iff.rfl, fun hsel => ⟨.inr hsel, fun hW => (waiting.1 (fromQueue hsel)).2 (issuedFirst hW)⟩, ?_⟩
    rintro ⟨hIS | hsel, hW⟩
    · exact absurd ⟨hIS, hW⟩ noneWaits
    · exact hsel

/-! ### Dispatch -/

theorem State.renamed_eq_isSome (s : State) (j : Nat) : s.renamed j = (s.stampOf .R j).isSome := by
  rw [State.renamed, State.stampOf]
  cases s.recs[j]? <;> rfl

theorem State.lt_count_of_passed {s : State} {st : Stage} {j : Nat} (h : s.passed st j) : j < s.count := by
  refine Nat.lt_of_not_le fun hle => ?_
  rw [State.passed, State.stampOf, List.getElem?_eq_none hle] at h
  cases h

theorem Ordered.renamed_of_lt {s : State} (hs : Ordered s) {i j : Nat} (hij : i < j) (hj : s.renamed j = true) :
    s.renamed i = true := by
  rw [State.renamed_eq_isSome] at hj ⊢
  exact hs.renames j (State.lt_count_of_passed hj) hj i hij

/-- What Dispatch takes from a contiguous latch whose renamed instructions stand on the left, and what it leaves. -/
theorem Ordered.latchR_dispatch {s t : State} (hs : Ordered s) (hsize : Sized s)
    (hd : SlotsDispatched s s.config.issueWidth t) :
    s.renamedSlots s.config.issueWidth ++ occupied t.latchR = occupied s.latchR ∧ contiguous t.latchR ∧
    (∀ j ∈ s.renamedSlots s.config.issueWidth, s.renamed j = true) ∧
    ∀ j ∈ occupied t.latchR, s.renamed j = false := by
  have width : s.latchR.length = s.config.issueWidth := hsize.latchRLength
  have taken : s.renamedSlots s.config.issueWidth = (occupied s.latchR).filter fun h => s.renamed h := by
    rw [State.renamedSlots, ← width]
    exact filterMap_range_filter_slotAt _ _
  have left : t.latchR = s.latchR.map (Option.filter fun h => !s.renamed h) :=
    eq_map_filter_of_slotAt hd.widthR fun i hi => by rw [hd.slotsR, if_pos (width ▸ hi)]
  have sorted : (occupied s.latchR).Pairwise (· < ·) := by
    rw [hs.latch_ranges.1]
    exact List.pairwise_lt_range' ..
  have down : ∀ i j, i ∈ occupied s.latchR → i < j → s.renamed j = true → s.renamed i = true :=
    fun i j _ hij hj => hs.renamed_of_lt hij hj
  have parts := filter_append_filter_not sorted down
  rw [taken, left, occupied_map_filter]
  refine ⟨parts, contiguous_map_filter hs.latches.2.2.2 (by simpa using parts), fun j hj => (List.mem_filter.1 hj).2,
    fun j hj => by simpa using (List.mem_filter.1 hj).2⟩

/-- The new entries: their ages and names are the same consecutive numbers. -/
theorem mem_entriesFor_range' {s : State} {n : Nat} {e : IQEntry}
    (he : e ∈ s.entriesFor (List.range' s.iqAgeCounter n)) :
    s.iqAgeCounter ≤ e.instrRef ∧ e.instrRef < s.iqAgeCounter + n ∧ e.age = e.instrRef := by
  obtain ⟨i, hi, rfl⟩ := List.mem_mapIdx.1 he
  rw [List.length_range'] at hi
  simp [State.entryFor, hi]

theorem Ordered.dispatchStage {s t : State} (hs : Ordered s) (hsize : Sized s) (h : dispatchStage s = .next t) :
    Ordered t := by
  have hd := dispatchStage_slotsDispatched h
  obtain ⟨parts, packed, renamed, -⟩ := hs.latchR_dispatch hsize hd
  obtain ⟨stamped, hrob, hiq, hage, -⟩ := hd
  generalize s.renamedSlots s.config.issueWidth = taken at stamped hrob hiq hage parts renamed
  have frame := dispatchStage_frame h
  obtain ⟨recs, iq, rob, age, latchDi, latchR, f, rfl⟩ : ∃ recs iq rob age latchDi latchR f, t = { s with
      recs := recs, iq := iq, rob := rob, iqAgeCounter := age, latchDi := latchDi, latchR := latchR, focus := f } :=
    ⟨_, _, _, _, _, _, _, frame⟩
  simp only at hrob hiq hage parts packed
  subst hrob hiq hage
  have more := stamped.passedMore
  obtain ⟨hcommitted, hdispatched, hfetched⟩ := hs.counters
  have hall := hs.latches.1
  rw [← parts, List.append_assoc, List.append_assoc] at hall
  obtain ⟨htaken, hrest, hlen⟩ := range'_of_append hall
  generalize taken.length = n at *
  subst htaken
  have waiting_lt : ∀ e ∈ s.iq, e.instrRef < s.iqAgeCounter := fun e he => by
    have hj := hs.handles.1 e he
    exact (hs.passed_Di hj).1 ((hs.mem_iq hj).1 (List.mem_map_of_mem he)).1
  have new_iff : ∀ j, j ∈ List.range' s.iqAgeCounter n ↔ s.iqAgeCounter ≤ j ∧ j < s.iqAgeCounter + n :=
    fun j => List.mem_range'_1
  have notIssued : ∀ j < s.count, s.iqAgeCounter ≤ j → ¬ s.passed .IS j := fun j hj hle hIS =>
    absurd (hs.dispatched_of_issued hj hIS) (Nat.not_lt.2 hle)
  refine
    { counters := ⟨hcommitted.trans (Nat.le_add_right _ _), show s.iqAgeCounter + n ≤ s.fetchOffset by omega,
        hfetched.trans_eq more.count.symm⟩
      rob := ⟨?_, fun e he => ?_⟩
      latches := ⟨?_, hs.latches.2.1, hs.latches.2.2.1, packed⟩
      queues := ⟨?_, fun e he => ?_, hs.queues.2.2⟩
      handles := handlesInRange_of_count_eq more.count (fun e he => ?_) hs.handles.2
      renames := more.renamedInOrder (by decide) hs.renames
      nested := fun j hj => ?_
      front := fun j hj => ?_
      inQueues := fun j hj => ?_ }
  · have refs : ((List.range' s.iqAgeCounter n).map fun h => ({ instrRef := h, ready := false, committed := false } :
        ROBEntry)).map ROBEntry.instrRef = List.range' s.iqAgeCounter n := by
      rw [List.map_map]
      exact List.map_id _
    show (s.rob ++ _).map ROBEntry.instrRef = List.range' s.completedCount (s.iqAgeCounter + n - s.completedCount)
    rw [List.map_append, refs, hs.rob.1, show s.iqAgeCounter + n - s.completedCount =
      (s.iqAgeCounter - s.completedCount) + n by omega, ← List.range'_append_1, Nat.add_sub_cancel' hcommitted]
  · obtain he | he := List.mem_append.1 he
    · exact hs.rob_entries_of_ne more (by decide) e he
    · obtain ⟨j, hj, rfl⟩ := List.mem_map.1 he
      have hj' := (new_iff j).1 hj
      have hcount : j < s.count := by omega
      refine ⟨rfl, nofun, fun hW => ?_⟩
      exact absurd (hs.issued_of_written hcount ((more.of_ne (by decide) hcount).1 hW)) (notIssued j hcount hj'.1)
  · show occupied latchR ++ occupied s.latchDc ++ occupied s.latchF =
      List.range' (s.iqAgeCounter + n) (s.fetchOffset - (s.iqAgeCounter + n))
    rw [List.append_assoc, hrest, Nat.sub_sub]
  · show ((s.iq ++ s.entriesFor (List.range' s.iqAgeCounter n)).map IQEntry.age).Pairwise (· < ·)
    rw [List.map_append, State.map_age_entriesFor, List.length_range']
    refine List.pairwise_append.2 ⟨hs.queues.1, List.pairwise_lt_range' .., fun x hx y hy => ?_⟩
    obtain ⟨e, he, rfl⟩ := List.mem_map.1 hx
    have := waiting_lt e he
    have := hs.queues.2.1 e he
    have := (new_iff y).1 hy
    omega
  · obtain he | he := List.mem_append.1 he
    · exact hs.queues.2.1 e he
    · exact (mem_entriesFor_range' he).2.2
  · obtain he | he := List.mem_append.1 he
    · exact hs.handles.1 e he
    · have := mem_entriesFor_range' he
      omega
  · rw [more.count] at hj
    refine more.nested hj (hs.nested j hj) fun hmem y hy => ?_
    cases hy
    exact (s.renamed_eq_isSome j).symm.trans (renamed j hmem)
  · rw [more.count] at hj
    have inR := parts ▸ hs.of_passed_R hj
    refine ⟨(more.of_ne (by decide) hj).trans (hs.passed_F hj), (more.of_ne (by decide) hj).trans (hs.passed_Dc hj),
      fun hp => ?_, (more.self hj).trans ?_, (more.of_ne (by decide) hj).trans (hs.passed_C hj),
      (stamped.fetchIndex j).trans (hs.fetchIndex hj)⟩
    · have := inR ((more.of_ne (by decide) hj).1 hp)
      rw [List.mem_append, new_iff] at this
      show j < s.iqAgeCounter + n ∨ j ∈ occupied latchR
      obtain hold | hnew | hleft := this
      · exact .inl (Nat.lt_add_right n hold)
      · exact .inl hnew.2
      · exact .inr hleft
    · rw [hs.passed_Di hj, new_iff]
      show _ ↔ j < s.iqAgeCounter + n
      omega
  · rw [more.count] at hj
    have queued : j ∈ (s.iq ++ s.entriesFor (List.range' s.iqAgeCounter n)).map IQEntry.instrRef ↔
        j ∈ s.iq.map IQEntry.instrRef ∨ j ∈ List.range' s.iqAgeCounter n := by
      rw [List.map_append, State.map_instrRef_entriesFor, List.mem_append]
    rw [PlacedInQueues, queued, more.of_ne (x := .IS) (by decide) hj, more.of_ne (x := .W) (by decide) hj, more.self hj,
      hs.mem_iq hj]
    refine ⟨⟨?_, ?_⟩, hs.mem_wbq hj⟩
    · rintro (⟨hDi, hIS⟩ | hnew)
      · exact ⟨.inl hDi, hIS⟩
      · exact ⟨.inr hnew, notIssued j hj ((new_iff j).1 hnew).1⟩
    · rintro ⟨hDi | hnew, hIS⟩
      · exact .inl ⟨hDi, hIS⟩
      · exact .inr hnew

end Sys2Proof.Machine

/-! # Program order and places, from Rename to the end of the tick (48_invariants.md section 3) -/

namespace Sys2Proof.Machine

open Sys2Proof

/-! ### The rename of one instruction -/

/-- The rename of instruction `h`, with record `r` in `s`, has completed in `t` with destination `p`. -/
structure RenameCompleted (s : State) (h : Nat) (r : Record) (p : Nat) (t : State) : Prop where
  record : s.recs[h]? = some r
  wellFormed : r.instr.wellFormed = true
  recs : t.recs = s.recs.set h (s.renamedRecord r p)
  tables :
    (∃ d rest, (rolesOf r.instr).dst = .alloc d ∧ s.free = p :: rest ∧
      t.map = s.map.set d p ∧ t.rdy = s.rdy.set p false ∧ t.free = rest) ∨
    (r.instr.produces = false ∧ t.map = s.map ∧ t.rdy = s.rdy ∧ t.free = s.free)
  frame : t = { s with recs := t.recs, map := t.map, rdy := t.rdy, free := t.free, focus := t.focus }

/-- Rename of one slot completes or stalls. -/
theorem runAt_R_completes {s t : State} {k h : Nat} (ht : runAt .R k h s = .next t) :
    t = s.focusOn .R k h ∨ ∃ r p, RenameCompleted s h r p t := by
  obtain ⟨r, hr, hwf, ⟨-, -, rfl⟩ | ⟨d, p, rest, hd, hf, rfl⟩ | ⟨p, hp, rfl⟩⟩ := runAt_R_cases ht
  · exact .inl rfl
  · exact .inr ⟨r, p, hr, hwf, rfl, .inl ⟨d, rest, hd, hf, rfl, rfl, rfl⟩, rfl⟩
  · exact .inr ⟨r, p, hr, hwf, rfl, .inr ⟨hp, rfl, rfl, rfl⟩, rfl⟩

section
variable {s t : State} {h p : Nat} {r : Record} (ht : RenameCompleted s h r p t)
include ht

theorem RenameCompleted.getElem?_self : t.recs[h]? = some (s.renamedRecord r p) := by
  rw [ht.recs, List.getElem?_set_self (List.getElem?_eq_some_iff.1 ht.record).1]

theorem RenameCompleted.getElem?_of_ne {j : Nat} (hj : j ≠ h) : t.recs[j]? = s.recs[j]? := by
  rw [ht.recs, List.getElem?_set_ne (Ne.symm hj)]

theorem RenameCompleted.count : t.count = s.count := by
  rw [State.count, ht.recs, List.length_set]

theorem RenameCompleted.lt_count : h < s.count := (List.getElem?_eq_some_iff.1 ht.record).1

/-- Rename sets one stamp. -/
theorem RenameCompleted.stampOf (x : Stage) (j : Nat) :
    t.stampOf x j = if x = .R ∧ j = h then some s.currentCycle else s.stampOf x j := by
  by_cases hj : j = h
  · subst hj
    have cycle : (s.renamedRecord r p).cycle = r.cycle.put .R s.currentCycle := rfl
    rw [State.stampOf_of_getElem? ht.getElem?_self, State.stampOf_of_getElem? ht.record, cycle]
    by_cases hx : x = .R
    · rw [hx, Stamps.get_put, if_pos ⟨rfl, rfl⟩]
    · rw [Stamps.get_put_of_ne _ _ hx, if_neg fun hc => hx hc.1]
  · rw [if_neg fun hc => hj hc.2, State.stampOf, ht.getElem?_of_ne hj, State.stampOf]

theorem RenameCompleted.passedMore : PassedMore .R [h] s t where
  count := ht.count
  passed x j _ := by
    rw [State.passed, ht.stampOf, List.mem_singleton]
    by_cases hx : x = .R ∧ j = h
    · simp [hx]
    · rw [if_neg hx]
      simp [hx]

/-- The fetch index is no renamed field. -/
theorem RenameCompleted.fetchIndex (j : Nat) :
    (t.recs[j]?).bind Record.fetchIndex = (s.recs[j]?).bind Record.fetchIndex := by
  by_cases hj : j = h
  · rw [hj, ht.getElem?_self, ht.record]
    rfl
  · rw [ht.getElem?_of_ne hj]

end

theorem Ordered.focusOn {s : State} (hs : Ordered s) (st : Stage) (k h : Nat) : Ordered (s.focusOn st k h) :=
  { hs with }

/-- The rename of the oldest instruction that is not renamed keeps the order. -/
theorem Ordered.renameCompleted {s t : State} {h p : Nat} {r : Record} (hs : Ordered s)
    (ht : RenameCompleted s h r p t) (hR : h ∈ occupied s.latchR) (older : ∀ i < h, s.passed .R i) : Ordered t := by
  have more := ht.passedMore
  have index := ht.fetchIndex
  have frame := ht.frame
  clear ht
  obtain ⟨recs, map, rdy, free, f, rfl⟩ : ∃ recs map rdy free f, t = { s with
      recs := recs, map := map, rdy := rdy, free := free, focus := f } := ⟨_, _, _, _, _, frame⟩
  have decoded : h < s.count → s.passed .Dc h := fun hh => (hs.passed_Dc hh).2 <| by
    have inR := hs.mem_latchR.1 hR
    have := hs.latch_ranges.2.2.2
    rw [hs.mem_latchF]
    omega
  refine
    { counters := ⟨hs.counters.1, hs.counters.2.1, hs.fetchOffset_le.trans_eq more.count.symm⟩
      rob := ⟨hs.rob.1, hs.rob_entries_of_ne more (by decide)⟩
      latches := hs.latches
      queues := hs.queues
      handles := handlesInRange_of_count_eq more.count hs.handles.1 hs.handles.2
      renames := fun j hj hp i hi => ?_
      nested := fun j hj => ?_
      front := fun j hj => ?_
      inQueues := fun j hj => ?_ }
  · rw [more.count] at hj
    refine (more.self (hi.trans hj)).2 (.inl ?_)
    obtain hp | hnew := (more.self hj).1 hp
    · exact hs.renames j hj hp i hi
    · exact older i (List.mem_singleton.1 hnew ▸ hi)
  · rw [more.count] at hj
    refine more.nested hj (hs.nested j hj) fun hmem y hy => ?_
    cases hy
    cases List.mem_singleton.1 hmem
    exact decoded hj
  · rw [more.count] at hj
    refine ⟨(more.of_ne (by decide) hj).trans (hs.passed_F hj), (more.of_ne (by decide) hj).trans (hs.passed_Dc hj),
      fun hp => ?_, (more.of_ne (by decide) hj).trans (hs.passed_Di hj),
      (more.of_ne (by decide) hj).trans (hs.passed_C hj), (index j).trans (hs.fetchIndex hj)⟩
    obtain hp | hnew := (more.self hj).1 hp
    · exact hs.of_passed_R hj hp
    · exact .inr (List.mem_singleton.1 hnew ▸ hR)
  · rw [more.count] at hj
    rw [PlacedInQueues, more.of_ne (by decide) hj, more.of_ne (by decide) hj, more.of_ne (by decide) hj]
    exact hs.inQueues j hj

/-! ### The Rename stage -/

theorem Ordered.takeGroup {s : State} (hs : Ordered s) : Ordered s.takeGroup := by
  unfold State.takeGroup
  split
  · next hR =>
    have noneInR := occupied_eq_nil_of_latchEmpty hR
    have all := hs.latches.1
    rw [noneInR, List.nil_append] at all
    refine { hs with
      latches := ⟨?_, hs.latches.2.1, leftPacked_emptyLatch _, contiguous_of_leftPacked hs.latches.2.2.1⟩
      front := fun j hj => ?_ }
    · show occupied s.latchDc ++ occupied (emptyLatch s.config.issueWidth) ++ occupied s.latchF = _
      rw [occupied_emptyLatch, List.append_nil, all]
    · obtain ⟨hF, hDc, hR', rest⟩ := hs.front j hj
      exact ⟨hF, hDc, fun hp => .inl ((hR' hp).resolve_right (by simp [noneInR])), rest⟩
  · exact hs

/-- Rename has come to slot `k`: the instructions in the slots on the left are renamed. -/
def LeftRenamed (k : Nat) (u : State) : Prop := ∀ i < k, ∀ h, slotAt u.latchR i = some h → u.renamed h = true

/-- With the slots on the left renamed, all older instructions are. -/
theorem Ordered.older_renamed {u : State} {k h : Nat} (hu : Ordered u) (left : LeftRenamed k u)
    (hk : slotAt u.latchR k = some h) : ∀ i < h, u.passed .R i := by
  intro i hi
  have hR := hu.mem_latchR.1 (mem_occupied.2 ⟨k, hk⟩)
  have sum := hu.latch_ranges.2.2.2
  have bound := hu.fetchOffset_le
  by_cases hdispatched : i < u.iqAgeCounter
  · have hcount : i < u.count := by omega
    exact hu.passed_before hcount rfl ((hu.passed_Di hcount).2 hdispatched)
  · obtain ⟨m, hm⟩ := mem_occupied.1 (hu.mem_latchR.2 ⟨Nat.not_lt.1 hdispatched, hi.trans hR.2⟩)
    have sorted : (occupied u.latchR).Pairwise (· < ·) := by
      rw [hu.latch_ranges.1]
      exact List.pairwise_lt_range' ..
    obtain hmk | rfl | hkm := Nat.lt_trichotomy m k
    · have := left m hmk i hm
      rwa [State.renamed_eq_isSome] at this
    · cases hm.symm.trans hk
      exact absurd hi (Nat.lt_irrefl _)
    · exact absurd (slotAt_pairwise sorted hkm hk hm) (Nat.lt_asymm hi)

/-- A property that the advance of the group keeps, and the rename of the oldest instruction that is not renamed, is kept
by Rename of an ordered state; and so is the order. -/
theorem renameStage_keeps_ordered {P : State → Prop} (takeGroup : ∀ u, Ordered u → P u → P u.takeGroup)
    (focusOn : ∀ u k h, P u → P (u.focusOn .R k h))
    (rename : ∀ u h r p v, Ordered u → P u → RenameCompleted u h r p v → h ∈ occupied u.latchR →
      ¬ u.passed .R h → (∀ i < h, u.passed .R i) → P v)
    {s t : State} (hs : Ordered s) (hP : P s) (h : renameStage s = .next t) : Ordered t ∧ P t := by
  have one : ∀ k u x v, (Ordered u ∧ P u) ∧ LeftRenamed k u → slotAt u.latchR k = some x → u.renamed x = false →
      runAt .R k x u = .next v → Ordered v ∧ P v := fun k u x v ⟨⟨hu, hPu⟩, left⟩ hk hpend hv => by
    have inR : x ∈ occupied u.latchR := mem_occupied.2 ⟨k, hk⟩
    obtain rfl | ⟨r, p, done⟩ := runAt_R_completes hv
    · exact ⟨hu.focusOn .R k x, focusOn u k x hPu⟩
    · have older := hu.older_renamed left hk
      rw [State.renamed_eq_isSome] at hpend
      exact ⟨hu.renameCompleted done inR older,
        rename u x r p v hu hPu done inR (by simp [State.passed, hpend]) older⟩
  refine (renameSlots_keeps (P := fun k u => (Ordered u ∧ P u) ∧ LeftRenamed k u) (Q := fun u => Ordered u ∧ P u)
    (fun k u ⟨hu, left⟩ hk => ⟨hu, fun i hi x hx => ?_⟩)
    (fun k u x v hu hk hpend hv hdone => ⟨one k u x v hu hk hpend hv, fun i hi y hy => ?_⟩)
    (fun k u x v hu hk hpend hv _ => one k u x v hu hk hpend hv) _ _ _ _
    ⟨⟨hs.takeGroup, takeGroup s hs hP⟩, fun i hi => absurd hi (Nat.not_lt_zero i)⟩ h).elim And.left id
  · obtain hik | rfl := Nat.lt_succ_iff_lt_or_eq.1 hi
    · exact left i hik x hx
    · exact hk x hx
  · rw [(latches_of_runAt_R hv).1] at hy
    obtain hik | rfl := Nat.lt_succ_iff_lt_or_eq.1 hi
    · exact renamed_keptAt_R y k x u v (hu.2 i hik y hy) hv
    · cases hk.symm.trans hy
      exact hdone

theorem Ordered.renameStage {s t : State} (hs : Ordered s) (h : renameStage s = .next t) : Ordered t :=
  (renameStage_keeps_ordered (P := fun _ => True) (fun _ _ _ => trivial) (fun _ _ _ _ => trivial)
    (fun _ _ _ _ _ _ _ _ _ _ _ => trivial) hs trivial h).1

/-! ### Decode -/

/-- Decode with `Dc` empty moves and stamps the whole group. -/
theorem decodeStage_moved {s t : State} (hsize : Sized s) (hDc : latchEmpty s.latchDc = true)
    (h : decodeStage s = .next t) :
    StampedAll .Dc (occupied s.latchF) s t ∧ t.latchDc = s.latchF ∧ t.latchF = emptyLatch s.config.issueWidth := by
  obtain ⟨latchDc, latchF, -⟩ :=
    decodeMovesTheGroup s t hDc hsize.latchFLength hsize.latchDcLength h
  refine ⟨?_, latchDc, latchF⟩
  have lengths := hsize.latchDcLength.trans hsize.latchFLength.symm
  rw [decodeStage, if_pos hDc] at h
  have moved := decodeSlots_keeps
    (P := fun k u => GroupDecoded s k u ∧ StampedAll .Dc ((List.range k).filterMap fun i => slotAt s.latchF i) s u)
    (fun k u ⟨hu, stamped⟩ hk => ⟨hu.skip hk, ?_⟩) (fun k u x v ⟨hu, stamped⟩ hk hv => ?_) _ _ _ _
    ⟨groupDecoded_start hDc lengths, .refl .Dc s⟩ h
  · rw [Nat.zero_add, ← hsize.latchFLength, filterMap_range_slotAt] at moved
    exact moved.2
  · have empty : slotAt s.latchF k = none := by
      by_cases hlt : k < s.latchF.length
      · simpa [hk] using (hu.slotsF k hlt).symm
      · exact Option.eq_none_iff_forall_ne_some.2 fun _ hx => hlt (lt_length_of_slotAt hx)
    rw [List.range_succ, List.filterMap_append, List.filterMap_cons_none empty, List.filterMap_nil, List.append_nil]
    exact stamped
  · have held : slotAt s.latchF k = some x := by
      simpa [hk] using (hu.slotsF k (hu.widthF ▸ lt_length_of_slotAt hk)).symm
    rw [List.range_succ, List.filterMap_append, List.filterMap_cons_some held, List.filterMap_nil]
    have once := stamped.trans (stampedAll_runAt (by decide) (by decide) hv)
    obtain ⟨r, hr, -, rfl⟩ := runAt_eq_next.1 hv
    exact ⟨hu.move hk hr, once⟩

theorem decodeStage_of_latchDc_full {s t : State} (hDc : latchEmpty s.latchDc = false) (h : decodeStage s = .next t) :
    t = s := by
  rw [decodeStage, if_neg (by simp [hDc])] at h
  exact (next_inj.1 h).symm

theorem Ordered.decodeStage {s t : State} (hs : Ordered s) (hsize : Sized s) (h : decodeStage s = .next t) :
    Ordered t := by
  cases hDc : latchEmpty s.latchDc with
  | false => exact decodeStage_of_latchDc_full hDc h ▸ hs
  | true =>
    have noneInDc := occupied_eq_nil_of_latchEmpty hDc
    obtain ⟨stamped, hlatchDc, hlatchF⟩ := decodeStage_moved hsize hDc h
    have more := stamped.passedMore
    have frame := decodeStage_frame h
    obtain ⟨recs, latchDc, latchF, f, rfl⟩ : ∃ recs latchDc latchF f, t = { s with
        recs := recs, latchDc := latchDc, latchF := latchF, focus := f } := ⟨_, _, _, _, frame⟩
    simp only at hlatchDc hlatchF
    subst hlatchDc hlatchF
    refine
      { counters := ⟨hs.counters.1, hs.counters.2.1, hs.fetchOffset_le.trans_eq more.count.symm⟩
        rob := ⟨hs.rob.1, hs.rob_entries_of_ne more (by decide)⟩
        latches := ⟨?_, leftPacked_emptyLatch _, hs.latches.2.1, hs.latches.2.2.2⟩
        queues := hs.queues
        handles := handlesInRange_of_count_eq more.count hs.handles.1 hs.handles.2
        renames := more.renamedInOrder (by decide) hs.renames
        nested := fun j hj => ?_
        front := fun j hj => ?_
        inQueues := fun j hj => ?_ }
    · have all := hs.latches.1
      rw [noneInDc, List.append_nil] at all
      show occupied s.latchR ++ occupied s.latchF ++ occupied (emptyLatch s.config.issueWidth) = _
      rw [occupied_emptyLatch, List.append_nil, all]
    · rw [more.count] at hj
      refine more.nested hj (hs.nested j hj) fun hmem y hy => ?_
      cases hy
      exact (hs.passed_F hj).2 (hs.mem_latchF.1 hmem).2
    · rw [more.count] at hj
      refine ⟨(more.of_ne (by decide) hj).trans (hs.passed_F hj), ?_,
        fun hp => hs.of_passed_R hj ((more.of_ne (by decide) hj).1 hp),
        (more.of_ne (by decide) hj).trans (hs.passed_Di hj), (more.of_ne (by decide) hj).trans (hs.passed_C hj),
        (stamped.fetchIndex j).trans (hs.fetchIndex hj)⟩
      rw [more.self hj, hs.passed_Dc hj]
      show _ ↔ j < s.fetchOffset ∧ j ∉ occupied (emptyLatch s.config.issueWidth)
      rw [occupied_emptyLatch]
      refine ⟨fun hp => ⟨hp.elim And.left fun hF => (hs.mem_latchF.1 hF).2, List.not_mem_nil⟩, fun ⟨hlt, _⟩ => ?_⟩
      by_cases hF : j ∈ occupied s.latchF
      · exact .inr hF
      · exact .inl ⟨hlt, hF⟩
    · rw [more.count] at hj
      rw [PlacedInQueues, more.of_ne (by decide) hj, more.of_ne (by decide) hj, more.of_ne (by decide) hj]
      exact hs.inQueues j hj

/-! ### Fetch -/

/-- An instruction that is not fetched has passed no stage. -/
theorem Ordered.not_passed_of_le {s : State} (hs : Ordered s) {j : Nat} (hoff : s.fetchOffset ≤ j) (st : Stage) :
    ¬ s.passed st j := by
  intro hp
  have hj := State.lt_count_of_passed hp
  have before : ∀ {st y}, y ∈ Stage.before st → ¬ s.passed y j → ¬ s.passed st j := fun hy hn hp =>
    hn (hs.passed_before hj hy hp)
  have hF : ¬ s.passed .F j := fun hp => absurd ((hs.passed_F hj).1 hp) (Nat.not_lt.2 hoff)
  have hDc := before (st := .Dc) rfl hF
  have hR := before (st := .R) rfl hDc
  have hDi := before (st := .Di) rfl hR
  have hIS := before (st := .IS) rfl hDi
  have hW := before (st := .W) rfl hIS
  have hC := before (st := .C) rfl hW
  cases st with
  | F => exact hF hp
  | Dc => exact hDc hp
  | R => exact hR hp
  | Di => exact hDi hp
  | IS => exact hIS hp
  | W => exact hW hp
  | C => exact hC hp

theorem Sized.count {s : State} (hs : Sized s) : s.count = s.config.trace.length := by
  rw [← hs.fromTrace, List.length_map]

/-- The stamps of a record just fetched. -/
theorem stampOf_of_fetchedAs {t : State} {i : Instr} {j c : Nat} (h : t.recs[j]? = some (Record.fetchedAs i j c))
    (x : Stage) : t.stampOf x j = if x = .F then some c else none := by
  rw [State.stampOf_of_getElem? h, Record.fetchedAs]
  by_cases hx : x = .F
  · rw [hx, Stamps.get_put, if_pos rfl]
  · rw [Stamps.get_put_of_ne _ _ hx, Stamps.get_unset, if_neg hx]

/-- The instructions that Fetch takes pass stage `F`, and no other stage is passed. -/
theorem GroupFetched.passedMore {s t : State} {n : Nat} (hs : Ordered s) (ht : GroupFetched s n t) :
    PassedMore .F (List.range' s.fetchOffset n) s t where
  count := ht.count
  passed x j _ := by
    rw [List.mem_range'_1]
    by_cases hj : s.fetchOffset ≤ j ∧ j < s.fetchOffset + n
    · obtain ⟨i, -, hr⟩ := ht.fetched j hj.1 hj.2
      have unpassed := hs.not_passed_of_le hj.1 x
      rw [State.passed, stampOf_of_fetchedAs hr]
      by_cases hx : x = .F
      · simp [hx, hj]
      · simp [hx, unpassed]
    · rw [State.passed, State.stampOf, ht.kept j (by omega), ← State.stampOf]
      simp [hj]

theorem GroupFetched.fetchIndex {s t : State} {n j : Nat} (hs : Ordered s) (ht : GroupFetched s n t)
    (hj : j < s.count) :
    (t.recs[j]?).bind Record.fetchIndex = if j < s.fetchOffset + n then some j else none := by
  by_cases hnew : s.fetchOffset ≤ j ∧ j < s.fetchOffset + n
  · obtain ⟨i, -, hr⟩ := ht.fetched j hnew.1 hnew.2
    rw [hr, if_pos hnew.2]
    rfl
  · rw [ht.kept j (by omega), hs.fetchIndex hj]
    by_cases hlt : j < s.fetchOffset
    · rw [if_pos hlt, if_pos (by omega)]
    · rw [if_neg hlt, if_neg (by omega)]

theorem fetchStage_of_latchF_full {s t : State} (hF : latchEmpty s.latchF = false) (h : fetchStage s = .next t) :
    t = s := by
  rw [fetchStage, if_neg (by simp [hF])] at h
  exact (next_inj.1 h).symm

theorem Ordered.fetchStage {s t : State} (hs : Ordered s) (hsize : Sized s) (h : fetchStage s = .next t) :
    Ordered t := by
  cases hF : latchEmpty s.latchF with
  | false => exact fetchStage_of_latchF_full hF h ▸ hs
  | true =>
    have noneInF := occupied_eq_nil_of_latchEmpty hF
    obtain ⟨n, hn, -, hlatchF, -⟩ := fetchFillsTheGroup s t hF hsize.latchFLength hsize.count h
    have filled := fetchStage_groupFetched hF hsize.count h
    rw [← hn] at filled
    have left := filled.le_left
    have more := filled.passedMore hs
    have index := fun j hj => filled.fetchIndex hs (j := j) hj
    have hoff := filled.offset
    have frame := fetchStage_frame h
    clear filled
    obtain ⟨recs, latchF, off, f, rfl⟩ : ∃ recs latchF off f, t = { s with
        recs := recs, latchF := latchF, fetchOffset := off, focus := f } := ⟨_, _, _, _, frame⟩
    simp only at hlatchF hoff
    subst hlatchF hoff
    have fetched := hs.counters.2.1
    have inTrace := hs.fetchOffset_le
    have room : s.fetchOffset + n ≤ s.count := by
      rw [← hsize.count] at left
      omega
    have new_iff : ∀ j, j ∈ List.range' s.fetchOffset n ↔ s.fetchOffset ≤ j ∧ j < s.fetchOffset + n :=
      fun j => List.mem_range'_1
    have held : occupied ((List.range' s.fetchOffset n).map some ++ emptyLatch (s.config.issueWidth - n)) =
        List.range' s.fetchOffset n := by simp
    refine
      { counters := ⟨hs.counters.1, fetched.trans (Nat.le_add_right _ _), room.trans_eq more.count.symm⟩
        rob := ⟨hs.rob.1, hs.rob_entries_of_ne more (by decide)⟩
        latches := ⟨?_, leftPacked_iff.2 ⟨_, _, rfl⟩, hs.latches.2.2.1, hs.latches.2.2.2⟩
        queues := hs.queues
        handles := handlesInRange_of_count_eq more.count hs.handles.1 hs.handles.2
        renames := more.renamedInOrder (by decide) hs.renames
        nested := fun j hj => ?_
        front := fun j hj => ?_
        inQueues := fun j hj => ?_ }
    · have all := hs.latches.1
      rw [noneInF, List.append_nil] at all
      show occupied s.latchR ++ occupied s.latchDc ++ occupied (_ ++ _) =
        List.range' s.iqAgeCounter (s.fetchOffset + n - s.iqAgeCounter)
      rw [held, all, show s.fetchOffset + n - s.iqAgeCounter = (s.fetchOffset - s.iqAgeCounter) + n by omega,
        ← List.range'_append_1, Nat.add_sub_cancel' fetched]
    · rw [more.count] at hj
      exact more.nested hj (hs.nested j hj) nofun
    · rw [more.count] at hj
      refine ⟨(more.self hj).trans ?_, (more.of_ne (by decide) hj).trans ?_,
        fun hp => hs.of_passed_R hj ((more.of_ne (by decide) hj).1 hp),
        (more.of_ne (by decide) hj).trans (hs.passed_Di hj), (more.of_ne (by decide) hj).trans (hs.passed_C hj),
        index j hj⟩
      · rw [hs.passed_F hj, new_iff]
        show _ ↔ j < s.fetchOffset + n
        omega
      · rw [hs.passed_Dc hj, noneInF]
        show _ ↔ j < s.fetchOffset + n ∧ j ∉ occupied (_ ++ _)
        rw [held, new_iff]
        simp only [List.not_mem_nil, not_false_iff, and_true]
        omega
    · rw [more.count] at hj
      rw [PlacedInQueues, more.of_ne (by decide) hj, more.of_ne (by decide) hj, more.of_ne (by decide) hj]
      exact hs.inQueues j hj

/-! ### The tick -/

/-- The states between the stages of a tick of an ordered state, ordered and sized, and the writeback queue drained. -/
structure OrderedTick (s s₁ s₂ s₃ s₄ s₅ s₆ s₇ : State) : Prop where
  commit : commitStage s.clearWires = .next s₁
  writeback : writebackStage s₁ = .next s₂
  issue : issueStage s₂ = .next s₃
  dispatch : dispatchStage s₃ = .next s₄
  rename : renameStage s₄ = .next s₅
  decode : decodeStage s₅ = .next s₆
  fetch : fetchStage s₆ = .next s₇
  ordered₁ : Ordered s₁
  ordered₂ : Ordered s₂
  ordered₃ : Ordered s₃
  ordered₄ : Ordered s₄
  ordered₅ : Ordered s₅
  ordered₆ : Ordered s₆
  ordered₇ : Ordered s₇
  sized₁ : Sized s₁
  sized₂ : Sized s₂
  sized₃ : Sized s₃
  sized₄ : Sized s₄
  sized₅ : Sized s₅
  sized₆ : Sized s₆
  sized₇ : Sized s₇
  drained : s₂.wbq = []

theorem Ordered.clearWires {s : State} (hs : Ordered s) : Ordered s.clearWires := { hs with }
theorem Ordered.finish {s : State} (hs : Ordered s) : Ordered s.finish := { hs with }

/-- A tick of an ordered state, stage by stage. -/
theorem Ordered.tick_stages {s t : State} (hsize : Sized s) (hs : Ordered s) (h : tick s = .next t) :
    ∃ s₁ s₂ s₃ s₄ s₅ s₆ s₇, OrderedTick s s₁ s₂ s₃ s₄ s₅ s₆ s₇ ∧ t = s₇.finish := by
  obtain ⟨s₁, s₂, s₃, s₄, s₅, s₆, s₇, hC, hW, hIS, hDi, hR, hDc, hF, rfl⟩ := tick_eq_next h
  have kept : ∀ st, st ≠ .F → KeptAt st Sized := fun st hst k h u v hu hv => hu.of_runAt hst hv
  have z₁ := commitStage_keeps (kept .C (by decide)) hsize.clearWires hC
  have z₂ := writebackStage_keeps (kept .W (by decide)) z₁ hW
  have z₃ := issueStage_keeps (kept .IS (by decide)) (fun _ => Sized.wakeup) z₂ hIS
  have z₄ := dispatchStage_keeps (kept .Di (by decide)) (fun _ => Sized.clearDi) z₃ hDi
  have z₅ := renameStage_keeps (kept .R (by decide)) (fun _ => Sized.takeGroup) z₄ hR
  have z₆ := decodeStage_keeps (kept .Dc (by decide)) z₅ hDc
  have z₇ := fetchStage_keeps (P := Sized) (fun i k u hu hi _ => hu.fetchOne k _ hi) z₆ hF
  have o₁ := hs.clearWires.commitStage hC
  obtain ⟨o₂, drained⟩ := o₁.writebackStage hW
  have o₃ := o₂.issueStage drained hIS
  have o₄ := o₃.dispatchStage z₃ hDi
  have o₅ := o₄.renameStage hR
  have o₆ := o₅.decodeStage z₅ hDc
  have o₇ := o₆.fetchStage z₆ hF
  exact ⟨s₁, s₂, s₃, s₄, s₅, s₆, s₇, ⟨hC, hW, hIS, hDi, hR, hDc, hF, o₁, o₂, o₃, o₄, o₅, o₆, o₇, z₁, z₂, z₃, z₄, z₅, z₆,
    z₇, drained⟩, rfl⟩

/-- Settles O40: every stage keeps the order. -/
theorem stepKeepsTheOrder : Obligations.StepKeepsTheOrder := by
  intro s t hshape hs h
  obtain ⟨-, ⟨-, rfl⟩ | ⟨-, h⟩⟩ := advance_eq_next h
  · exact hs
  · obtain ⟨s₁, s₂, s₃, s₄, s₅, s₆, s₇, stages, rfl⟩ := hs.tick_stages hshape.sized h
    exact stages.ordered₇.finish

/-! ### Back-pressure -/

/-- Latch `Dc`, latch `F` and the fetch offset. -/
def State.frontEnd (s : State) : List (Option Nat) × List (Option Nat) × Nat := (s.latchDc, s.latchF, s.fetchOffset)

/-- The stages before Rename leave the front end alone. -/
theorem OrderedTick.frontEnd {s s₁ s₂ s₃ s₄ s₅ s₆ s₇ : State} (h : OrderedTick s s₁ s₂ s₃ s₄ s₅ s₆ s₇) :
    s₄.frontEnd = s.frontEnd := calc
  s₄.frontEnd = s₃.frontEnd := (congrArg State.frontEnd (dispatchStage_frame h.dispatch) :)
  _ = s₂.frontEnd := (congrArg State.frontEnd (issueStage_frame h.issue) :)
  _ = s₁.frontEnd := (congrArg State.frontEnd (writebackStage_frame h.writeback) :)
  _ = s.frontEnd := (congrArg State.frontEnd (commitStage_frame h.commit) :)

/-- Settles O34: an instruction that is still in its slot of `R` was not in `Dc`, so no group was taken; then `Dc` is full
for Decode and `F` for Fetch. -/
theorem stallHoldsTheFrontEnd : Obligations.StallHoldsTheFrontEnd := by
  intro s t k h hshape hs hstep hk hk' hDc
  obtain ⟨-, ⟨-, rfl⟩ | ⟨-, hstep⟩⟩ := advance_eq_next hstep
  · exact ⟨rfl, fun _ => ⟨rfl, rfl⟩⟩
  · obtain ⟨s₁, s₂, s₃, s₄, s₅, s₆, s₇, stages, rfl⟩ := hs.tick_stages hshape.sized hstep
    obtain ⟨sameDc, sameF, sameOffset⟩ :
        s₄.latchDc = s.latchDc ∧ s₄.latchF = s.latchF ∧ s₄.fetchOffset = s.fetchOffset := by
      simpa only [State.frontEnd, Prod.mk.injEq] using stages.frontEnd
    obtain ⟨latchR, latchDc⟩ := renameStage_latches stages.rename
    have fR := renameStage_frame stages.rename
    have fDc := decodeStage_frame stages.decode
    have fF := fetchStage_frame stages.fetch
    have stays : slotAt s₄.takeGroup.latchR k = some h := by
      rw [← latchR, ← (congrArg State.latchR fDc :), ← (congrArg State.latchR fF :)]
      exact hk'
    have full : latchEmpty s₄.latchR = false := by
      refine Bool.eq_false_iff.2 fun hempty => ?_
      rw [takeGroup_latchR, if_pos hempty, sameDc] at stays
      have inR := hs.mem_latchR.1 (mem_occupied.2 ⟨k, hk⟩)
      have inDc := hs.mem_latchDc.1 (mem_occupied.2 ⟨k, stays⟩)
      omega
    have heldDc : s₅.latchDc = s.latchDc := by
      rw [latchDc, takeGroup_latchDc, full]
      exact sameDc
    obtain rfl : s₆ = s₅ := decodeStage_of_latchDc_full (heldDc ▸ hDc) stages.decode
    refine ⟨(congrArg State.latchDc fF :).trans heldDc, fun hF => ?_⟩
    have heldF : s₆.latchF = s.latchF := (congrArg State.latchF fR :).trans sameF
    obtain rfl : s₇ = s₆ := fetchStage_of_latchF_full (heldF ▸ hF) stages.fetch
    exact ⟨heldF, (congrArg State.fetchOffset fR :).trans sameOffset⟩

end Sys2Proof.Machine

/-! # The stamps (48_invariants.md sections 4 and 5)

The stages run in the reverse order of an instruction's life, each stamps instructions that it has not stamped before and
that had passed the stage before it, and so a stamp of a tick is that of an instruction that had passed the stage before
when the tick began (`TickStamps`). -/

namespace Sys2Proof.Machine

open Sys2Proof

/-! ### What one stage adds to the stamps -/

/-- Stage `st` of `s` has set stamps of stage `st` to the cycle number, none that was set, and only of instructions that
have passed the stage before. -/
structure Advances (st : Stage) (s t : State) : Prop where
  cycle : t.currentCycle = s.currentCycle
  count : t.count = s.count
  others : ∀ x, x ≠ st → ∀ j, t.stampOf x j = s.stampOf x j
  kept : ∀ j, s.passed st j → t.stampOf st j = s.stampOf st j
  fresh : ∀ j, ¬ s.passed st j → t.passed st j →
    t.stampOf st j = some s.currentCycle ∧ ∀ y ∈ st.before, s.passed y j

theorem Stage.before_ne {st y : Stage} (hy : y ∈ st.before) : y ≠ st := by
  cases st <;> cases hy <;> decide

section
variable {st : Stage} {s t u : State}

theorem stampOf_of_recs_eq (hr : t.recs = s.recs) (x : Stage) (j : Nat) : t.stampOf x j = s.stampOf x j := by
  rw [State.stampOf, hr, State.stampOf]

theorem passed_of_recs_eq (hr : t.recs = s.recs) (x : Stage) (j : Nat) : t.passed x j ↔ s.passed x j := by
  rw [State.passed, stampOf_of_recs_eq hr]

theorem Advances.of_recs_eq (st : Stage) (hc : t.currentCycle = s.currentCycle) (hr : t.recs = s.recs) :
    Advances st s t where
  cycle := hc
  count := congrArg List.length hr
  others x _ j := stampOf_of_recs_eq hr x j
  kept j _ := stampOf_of_recs_eq hr st j
  fresh j hn hp := absurd ((passed_of_recs_eq hr st j).1 hp) hn

theorem Advances.passed (h : Advances st s t) {x : Stage} {j : Nat} (hp : s.passed x j) : t.passed x j := by
  by_cases hx : x = st
  · subst hx
    rwa [State.passed, h.kept j hp]
  · rwa [State.passed, h.others x hx]

theorem Advances.passed_of_ne (h : Advances st s t) {x : Stage} (hx : x ≠ st) {j : Nat} :
    t.passed x j ↔ s.passed x j := by
  rw [State.passed, h.others x hx]

theorem Advances.trans (h : Advances st s t) (h' : Advances st t u) : Advances st s u where
  cycle := h'.cycle.trans h.cycle
  count := h'.count.trans h.count
  others x hx j := (h'.others x hx j).trans (h.others x hx j)
  kept j hp := (h'.kept j (h.passed hp)).trans (h.kept j hp)
  fresh j hn hp := by
    by_cases ht : t.passed st j
    · rw [h'.kept j ht]
      exact h.fresh j hn ht
    · obtain ⟨hstamp, before⟩ := h'.fresh j ht hp
      exact ⟨hstamp.trans (by rw [h.cycle]), fun y hy => (h.passed_of_ne (Stage.before_ne hy)).1 (before y hy)⟩

theorem StampedAll.advances {hs : List Nat} (h : StampedAll st hs s t)
    (ready : ∀ j ∈ hs, ¬ s.passed st j ∧ ∀ y ∈ st.before, s.passed y j) : Advances st s t where
  cycle := h.cycle
  count := h.count
  others x hx j := h.stampOf_of_ne hx j
  kept j hp := by
    rw [h.stampOf]
    exact if_neg fun ⟨_, hmem, _⟩ => (ready j hmem).1 hp
  fresh j hn hp := by
    rw [State.passed, h.stampOf] at hp
    split at hp
    · next hj => exact ⟨(h.stampOf st j).trans (if_pos hj), (ready j hj.2.1).2⟩
    · exact absurd hp hn

theorem RenameCompleted.advances {h p : Nat} {r : Record} (ht : RenameCompleted s h r p t) (hn : ¬ s.passed .R h)
    (hDc : s.passed .Dc h) : Advances .R s t where
  cycle := (congrArg State.currentCycle ht.frame :)
  count := ht.count
  others x hx j := (ht.stampOf x j).trans (if_neg fun hc => hx hc.1)
  kept j hp := (ht.stampOf .R j).trans (if_neg fun ⟨_, hj⟩ => hn (hj ▸ hp))
  fresh j hn' hp := by
    rw [State.passed, ht.stampOf] at hp
    split at hp
    · next hj =>
      refine ⟨(ht.stampOf .R j).trans (if_pos hj), fun y hy => ?_⟩
      cases hy
      exact hj.2 ▸ hDc
    · exact absurd hp hn'

/-! ### Stage by stage -/

theorem Ordered.renamed_of_issued (hs : Ordered s) {j : Nat} (hp : s.passed .IS j) : s.passed .R j :=
  have hj := State.lt_count_of_passed hp
  hs.passed_before hj rfl (hs.passed_before hj rfl hp)

/-- The instructions that Commit retires: written back, not committed, and each once. -/
theorem Ordered.retired_ready (hs : Ordered s) (n : Nat) :
    ((s.rob.take (min n (s.rob.takeWhile ROBEntry.ready).length)).map ROBEntry.instrRef).Nodup ∧
    ∀ j ∈ (s.rob.take (min n (s.rob.takeWhile ROBEntry.ready).length)).map ROBEntry.instrRef,
      s.passed .W j ∧ ¬ s.passed .C j := by
  refine ⟨?_, fun j hj => ?_⟩
  · have distinct : (s.rob.map ROBEntry.instrRef).Nodup := by
      rw [hs.rob.1]
      exact List.nodup_range' ..
    exact distinct.sublist ((List.take_sublist _ _).map _)
  · obtain ⟨e, he, rfl⟩ := List.mem_map.1 hj
    obtain ⟨hmem, hready⟩ := ready_of_mem_take he
    have uncommitted := (hs.rob_instrRef hmem).1
    refine ⟨(hs.rob.2 e hmem).2.1 hready, fun hC => ?_⟩
    have := (hs.passed_C (State.lt_count_of_passed hC)).1 hC
    omega

theorem Ordered.commitStage_advances (hs : Ordered s) (h : Machine.commitStage s = .next t) : Advances .C s t := by
  refine (commitWalk_retired h).stamped.advances fun j hj => ?_
  obtain ⟨hW, hC⟩ := (hs.retired_ready _).2 j hj
  exact ⟨hC, fun y hy => by cases hy; exact hW⟩

theorem Ordered.writebackStage_advances (hs : Ordered s) (h : Machine.writebackStage s = .next t) :
    Advances .W s t := by
  have stamped := (writebackStage_drained hs.queues.2.2.2 h).stamped
  rw [List.take_length] at stamped
  refine stamped.advances fun j hj => ?_
  obtain ⟨hIS, hW⟩ := (hs.mem_wbq (hs.handles.2 j hj)).1 hj
  exact ⟨hW, fun y hy => by cases hy; exact hIS⟩

/-- The instructions that Issue selects are dispatched and not issued. -/
theorem Ordered.selected_waits (hs : Ordered s) {j : Nat} (hj : j ∈ s.selected.map IQEntry.instrRef) :
    s.passed .Di j ∧ ¬ s.passed .IS j := by
  have queued := hs.selected.1 j hj
  obtain ⟨e, he, rfl⟩ := List.mem_map.1 queued
  exact (hs.mem_iq (hs.handles.1 e he)).1 queued

theorem Ordered.issueStage_advances (hs : Ordered s) (h : Machine.issueStage s = .next t) : Advances .IS s t :=
  (issueStage_iq h).1.advances fun _ hj =>
    ⟨(hs.selected_waits hj).2, fun y hy => by cases hy; exact (hs.selected_waits hj).1⟩

theorem Ordered.dispatchStage_advances (hs : Ordered s) (hsize : Sized s) (h : Machine.dispatchStage s = .next t) :
    Advances .Di s t := by
  have taken := dispatchStage_slotsDispatched h
  obtain ⟨parts, -, renamed, -⟩ := hs.latchR_dispatch hsize taken
  refine taken.stamped.advances fun j hj => ?_
  have undispatched := (hs.mem_latchR.1 (parts ▸ List.mem_append_left _ hj)).1
  refine ⟨fun hDi => ?_, fun y hy => ?_⟩
  · have := (hs.passed_Di (State.lt_count_of_passed hDi)).1 hDi
    omega
  · cases hy
    exact (s.renamed_eq_isSome j).symm.trans (renamed j hj)

theorem Ordered.decoded_of_mem_latchR (hs : Ordered s) {j : Nat} (hj : j < s.count) (hR : j ∈ occupied s.latchR) :
    s.passed .Dc j := by
  have inR := hs.mem_latchR.1 hR
  have := hs.latch_ranges.2.2.2
  rw [hs.passed_Dc hj, hs.mem_latchF]
  omega

theorem Ordered.renameStage_advances (hs : Ordered s) (h : Machine.renameStage s = .next t) : Advances .R s t :=
  (renameStage_keeps_ordered (P := Advances .R s)
    (fun u _ hu => hu.trans (.of_recs_eq .R u.takeGroup_currentCycle u.takeGroup_recs))
    (fun _ _ _ hu => hu.trans (.of_recs_eq .R rfl rfl))
    (fun _ _ _ _ _ ordered hu done hR hn _ =>
      hu.trans (done.advances hn (ordered.decoded_of_mem_latchR done.lt_count hR)))
    hs (.of_recs_eq .R rfl rfl) h).2

theorem Ordered.decodeStage_advances (hs : Ordered s) (hsize : Sized s) (h : Machine.decodeStage s = .next t) :
    Advances .Dc s t := by
  cases hDc : latchEmpty s.latchDc with
  | false => exact decodeStage_of_latchDc_full hDc h ▸ .of_recs_eq .Dc rfl rfl
  | true =>
    refine (decodeStage_moved hsize hDc h).1.advances fun j hj => ⟨fun hp => ?_, fun y hy => ?_⟩
    · exact ((hs.passed_Dc (State.lt_count_of_passed hp)).1 hp).2 hj
    · have fetched := (hs.mem_latchF.1 hj).2
      cases hy
      exact (hs.passed_F (fetched.trans_le hs.fetchOffset_le)).2 fetched

theorem Ordered.fetchStage_advances (hs : Ordered s) (hsize : Sized s) (h : Machine.fetchStage s = .next t) :
    Advances .F s t := by
  cases hF : latchEmpty s.latchF with
  | false => exact fetchStage_of_latchF_full hF h ▸ .of_recs_eq .F rfl rfl
  | true =>
    have filled := fetchStage_groupFetched hF hsize.count h
    generalize min s.config.issueWidth (s.config.trace.length - s.fetchOffset) = n at filled
    have stamps : ∀ x j, t.stampOf x j =
        if s.fetchOffset ≤ j ∧ j < s.fetchOffset + n then (if x = .F then some s.currentCycle else none)
        else s.stampOf x j := fun x j => by
      split
      · next hj =>
        obtain ⟨i, -, hr⟩ := filled.fetched j hj.1 hj.2
        exact stampOf_of_fetchedAs hr x
      · next hj => rw [State.stampOf, State.stampOf, filled.kept j (by omega)]
    refine ⟨filled.frame.cycle, filled.count, fun x hx j => ?_, fun j hp => ?_, fun j hn hp => ⟨?_, nofun⟩⟩
    · rw [stamps, if_neg hx]
      split
      · next hj => exact (Option.not_isSome_iff_eq_none.1 (hs.not_passed_of_le hj.1 x)).symm
      · rfl
    · rw [stamps, if_neg fun hj => hs.not_passed_of_le hj.1 .F hp]
    · rw [State.passed, stamps] at hp
      rw [stamps]
      split
      · rfl
      · next hj => exact absurd (by rwa [if_neg hj] at hp) hn

end

/-! ### What a tick adds to the stamps -/

/-- From the start `s` of a tick to `u`, where the stages of `done` have run: no stamp that was set has changed, and a new
one is the cycle number, of an instruction that had passed the stage before at the start. -/
structure StampedSoFar (done : List Stage) (s u : State) : Prop where
  cycle : u.currentCycle = s.currentCycle
  count : u.count = s.count
  untouched : ∀ x, x ∉ done → ∀ j, u.stampOf x j = s.stampOf x j
  kept : ∀ x j, s.passed x j → u.stampOf x j = s.stampOf x j
  fresh : ∀ x j, ¬ s.passed x j → u.passed x j →
    u.stampOf x j = some s.currentCycle ∧ ∀ y ∈ x.before, s.passed y j

theorem StampedSoFar.start {s u : State} (hc : u.currentCycle = s.currentCycle) (hr : u.recs = s.recs) :
    StampedSoFar [] s u where
  cycle := hc
  count := congrArg List.length hr
  untouched x _ := stampOf_of_recs_eq hr x
  kept x j _ := stampOf_of_recs_eq hr x j
  fresh x j hn hp := absurd ((passed_of_recs_eq hr x j).1 hp) hn

/-- One stage more, before which neither it nor the stage before it in an instruction's life has run. -/
theorem StampedSoFar.stage {done : List Stage} {s u v : State} {st : Stage} (hu : StampedSoFar done s u)
    (hv : Advances st u v) (hst : st ∉ done) (hbefore : ∀ y ∈ st.before, y ∉ done) :
    StampedSoFar (st :: done) s v where
  cycle := hv.cycle.trans hu.cycle
  count := hv.count.trans hu.count
  untouched x hx j := by
    obtain ⟨hne, hdone⟩ := List.ne_and_not_mem_of_not_mem_cons hx
    rw [hv.others x hne, hu.untouched x hdone]
  kept x j hp := by
    have := hu.kept x j hp
    by_cases hx : x = st
    · subst hx
      rw [hv.kept j (by rwa [State.passed, this]), this]
    · rw [hv.others x hx, this]
  fresh x j hn hp := by
    by_cases hx : x = st
    · subst hx
      have same := hu.untouched x hst j
      obtain ⟨hstamp, before⟩ := hv.fresh j (by rwa [State.passed, same]) hp
      refine ⟨hstamp.trans (by rw [hu.cycle]), fun y hy => ?_⟩
      have := before y hy
      rwa [State.passed, hu.untouched y (hbefore y hy)] at this
    · rw [State.passed, hv.others x hx] at hp
      rw [hv.others x hx]
      exact hu.fresh x j hn hp

/-- What a tick from `s` to `t` has done to the stamps. -/
structure TickStamps (s t : State) : Prop where
  cycle : t.currentCycle = s.currentCycle + 1
  count : t.count = s.count
  kept : ∀ x j, s.passed x j → t.stampOf x j = s.stampOf x j
  fresh : ∀ x j, ¬ s.passed x j → t.passed x j →
    t.stampOf x j = some s.currentCycle ∧ ∀ y ∈ x.before, s.passed y j
  dispatched : ∀ j, s.passed .R j → t.passed .Di j
  written : ∀ j, s.passed .IS j → t.passed .W j

section
variable {s s₁ s₂ s₃ s₄ s₅ s₆ s₇ : State}

/-- After Writeback every issued instruction is written back. -/
theorem Ordered.written_of_drained (hs : Ordered s) (hq : s.wbq = []) {j : Nat} (hp : s.passed .IS j) :
    s.passed .W j := by
  by_contra hW
  have := (hs.mem_wbq (State.lt_count_of_passed hp)).2 ⟨hp, hW⟩
  rw [hq] at this
  cases this

/-- After Dispatch every renamed instruction is dispatched. -/
theorem Ordered.dispatched_of_renamed {t : State} (hs : Ordered s) (hsize : Sized s) (ht : Ordered t)
    (h : Machine.dispatchStage s = .next t) {j : Nat} (hp : t.passed .R j) : t.passed .Di j := by
  have hj := State.lt_count_of_passed hp
  have taken := dispatchStage_slotsDispatched h
  obtain ⟨-, -, -, pending⟩ := hs.latchR_dispatch hsize taken
  obtain hDi | hR := ht.of_passed_R hj hp
  · exact (ht.passed_Di hj).2 hDi
  · have := pending j hR
    rw [State.passed, taken.stamped.stampOf_of_ne (by decide)] at hp
    rw [State.renamed_eq_isSome, hp] at this
    cases this

theorem OrderedTick.advances (h : OrderedTick s s₁ s₂ s₃ s₄ s₅ s₆ s₇) (hs : Ordered s) :
    Advances .C s s₁ ∧ Advances .W s₁ s₂ ∧ Advances .IS s₂ s₃ ∧ Advances .Di s₃ s₄ ∧ Advances .R s₄ s₅ ∧
      Advances .Dc s₅ s₆ ∧ Advances .F s₆ s₇ := by
  have cleared : Advances .C s s.clearWires := .of_recs_eq .C rfl rfl
  exact ⟨cleared.trans (hs.clearWires.commitStage_advances h.commit), h.ordered₁.writebackStage_advances h.writeback,
    h.ordered₂.issueStage_advances h.issue, h.ordered₃.dispatchStage_advances h.sized₃ h.dispatch,
    h.ordered₄.renameStage_advances h.rename, h.ordered₅.decodeStage_advances h.sized₅ h.decode,
    h.ordered₆.fetchStage_advances h.sized₆ h.fetch⟩

theorem OrderedTick.stamps (h : OrderedTick s s₁ s₂ s₃ s₄ s₅ s₆ s₇) (hs : Ordered s) : TickStamps s s₇.finish := by
  obtain ⟨aC, aW, aIS, aDi, aR, aDc, aF⟩ := h.advances hs
  have all := (((((((StampedSoFar.start (s := s) rfl rfl).stage aC (by decide) (by decide)).stage aW (by decide)
    (by decide)).stage aIS (by decide) (by decide)).stage aDi (by decide) (by decide)).stage aR (by decide)
    (by decide)).stage aDc (by decide) (by decide)).stage aF (by decide) (by decide)
  refine ⟨congrArg (· + 1) all.cycle, all.count, all.kept, all.fresh, fun j hp => ?_, fun j hp => ?_⟩
  · have renamed : s₄.passed .R j := aDi.passed (aIS.passed (aW.passed (aC.passed hp)))
    exact aF.passed (aDc.passed (aR.passed
      (h.ordered₃.dispatched_of_renamed h.sized₃ h.ordered₄ h.dispatch renamed)))
  · have issued : s₂.passed .IS j := aW.passed (aC.passed hp)
    exact aF.passed (aDc.passed (aR.passed (aDi.passed (aIS.passed
      (h.ordered₂.written_of_drained h.drained issued)))))

end

/-! ### The layer of the stamps -/

theorem Stage.mem_all (st : Stage) : st ∈ [Stage.F, .Dc, .R, .Di, .IS, .W, .C] := by cases st <;> decide

section
variable {s t : State}

/-- A stamp is set with the cycle number, or kept. -/
theorem TickStamps.cases (h : TickStamps s t) {x : Stage} {j v : Nat} (hv : t.stampOf x j = some v) :
    (s.stampOf x j = some v) ∨
    (¬ s.passed x j ∧ v = s.currentCycle ∧ ∀ y ∈ x.before, s.passed y j) := by
  by_cases hp : s.passed x j
  · exact .inl ((h.kept x j hp).symm.trans hv)
  · obtain ⟨hstamp, before⟩ := h.fresh x j hp (by rw [State.passed, hv]; rfl)
    exact .inr ⟨hp, Option.some.inj (hv.symm.trans hstamp), before⟩

theorem Timed.stamp_lt (hs : Timed s) {x : Stage} {j v : Nat} (hv : s.stampOf x j = some v) : v < s.currentCycle :=
  (hs.past j (State.lt_count_of_passed (st := x) (by rw [State.passed, hv]; rfl))).1 x x.mem_all v hv

/-- Two stages that follow each other are passed in different ticks. -/
theorem TickStamps.laterBy (h : TickStamps s t) (hs : Timed s) (hord : Ordered s) {x y : Stage} (hx : x ∈ y.before)
    {j : Nat} (hj : j < s.count) (hlater : LaterBy s j x y) : LaterBy t j x y := by
  intro tx htx ty hty
  obtain hold | ⟨-, rfl, before⟩ := h.cases hty
  · have passed : s.passed x j := hord.passed_before hj hx (by rw [State.passed, hold]; rfl)
    exact hlater tx ((h.kept x j passed).symm.trans htx) ty hold
  · exact hs.stamp_lt ((h.kept x j (before x hx)).symm.trans htx)

/-- A stage that takes all that the stage before it has left follows it in the next tick. -/
theorem TickStamps.nextTick (h : TickStamps s t) (hord : Ordered s) {x y : Stage} (hx : x ∈ y.before) {j : Nat}
    (hj : j < s.count) (hnext : NextTick s j x y)
    (hwaits : ∀ v ∈ s.stampOf x j, ¬ s.passed y j → v + 1 = s.currentCycle) : NextTick t j x y := by
  intro tx htx ty hty
  obtain hold | ⟨hn, rfl, before⟩ := h.cases hty
  · have passed : s.passed x j := hord.passed_before hj hx (by rw [State.passed, hold]; rfl)
    exact hnext tx ((h.kept x j passed).symm.trans htx) ty hold
  · exact (hwaits tx ((h.kept x j (before x hx)).symm.trans htx) hn).symm

theorem TickStamps.monotone (h : TickStamps s t) (hs : Timed s) (hord : Ordered s) {j : Nat} (hj : j < s.count) :
    StampsMonotone t j := by
  obtain ⟨hDc, hR, hDi, hIS, hW, hC⟩ := hs.monotone j hj
  obtain ⟨-, renamed, issued⟩ := hs.past j hj
  exact ⟨h.laterBy hs hord rfl hj hDc, h.laterBy hs hord rfl hj hR, h.nextTick hord rfl hj hDi renamed,
    h.laterBy hs hord rfl hj hIS, h.nextTick hord rfl hj hW issued, h.laterBy hs hord rfl hj hC⟩

theorem TickStamps.past (h : TickStamps s t) (hs : Timed s) (j : Nat) : StampsPast t j := by
  have cycle := h.cycle
  refine ⟨fun x _ v hv => ?_, fun v hv hn => ?_, fun v hv hn => ?_⟩
  · obtain hold | ⟨-, rfl, -⟩ := h.cases hv
    · have := hs.stamp_lt hold
      omega
    · omega
  · obtain hold | ⟨-, rfl, -⟩ := h.cases hv
    · exact absurd (h.dispatched j (by rw [State.passed, hold]; rfl)) hn
    · exact cycle.symm
  · obtain hold | ⟨-, rfl, -⟩ := h.cases hv
    · exact absurd (h.written j (by rw [State.passed, hold]; rfl)) hn
    · exact cycle.symm

/-- The front end and Commit take instructions in program order. -/
theorem Ordered.passed_older (ht : Ordered t) {x : Stage} (hx : x ∈ [Stage.F, .Dc, .R, .Di, .C]) {i j : Nat}
    (hij : i < j) (hp : t.passed x j) : t.passed x i := by
  have hj := State.lt_count_of_passed hp
  have hi := hij.trans hj
  simp only [List.mem_cons, List.not_mem_nil, or_false] at hx
  obtain rfl | rfl | rfl | rfl | rfl := hx
  · rw [ht.passed_F hj] at hp
    rw [ht.passed_F hi]
    omega
  · rw [ht.passed_Dc hj, ht.mem_latchF] at hp
    rw [ht.passed_Dc hi, ht.mem_latchF]
    omega
  · exact ht.renames j hj hp i hij
  · rw [ht.passed_Di hj] at hp
    rw [ht.passed_Di hi]
    omega
  · rw [ht.passed_C hj] at hp
    rw [ht.passed_C hi]
    omega

theorem TickStamps.inOrder (h : TickStamps s t) (hs : Timed s) (ht : Ordered t) : StampsInOrder t := by
  intro x hx j hj i hij v hv
  obtain hold | ⟨-, rfl, -⟩ := h.cases hv
  · have inTable : j < s.count := State.lt_count_of_passed (st := x) (by rw [State.passed, hold]; rfl)
    obtain ⟨u, hu, hle⟩ := hs.inOrder x hx j inTable i hij v hold
    exact ⟨u, (h.kept x i (by rw [State.passed, hu]; rfl)).trans hu, hle⟩
  · obtain ⟨u, hu⟩ := Option.isSome_iff_exists.1 (ht.passed_older hx hij (by rw [State.passed, hv]; rfl))
    refine ⟨u, hu, ?_⟩
    have := (h.past hs i).1 x x.mem_all u hu
    have := h.cycle
    omega

/-- The width bound of the invariant, with the stamps in the past. -/
theorem Timed.widthKept (hs : Timed s) : WidthKept s := by
  intro st v
  split
  · next hv => exact hs.width st st.mem_all v hv
  · next hv =>
    rw [State.widthUsed_eq_countP, Nat.le_zero, List.countP_eq_zero]
    intro r hr hstamp
    obtain ⟨j, hj⟩ := List.mem_iff_getElem?.1 hr
    exact hv (hs.stamp_lt ((State.stampOf_of_getElem? hj st).trans (beq_iff_eq.1 hstamp)))

theorem Timed.widthBound_of_step (hs : Timed s) (h : step s = .next t) : WidthBound t := fun st _ v hv => by
  have := hs.widthKept.of_step h st v
  rwa [if_pos hv] at this

theorem Ordered.lt_count_of_mem_latchR (hs : Ordered s) {j : Nat} (hj : j ∈ occupied s.latchR) : j < s.count := by
  have := hs.mem_latchR.1 hj
  have := hs.latch_ranges.2.2.2
  have := hs.fetchOffset_le
  omega

/-- Latch `Di` after Dispatch: the instructions just stamped, in program order. -/
theorem Ordered.dispatchStage_latchDi (hs : Ordered s) (hsize : Sized s) (h : Machine.dispatchStage s = .next t) :
    (occupied t.latchDi).Pairwise (· < ·) ∧ StampedAll .Di (occupied t.latchDi) s t ∧
      ∀ j ∈ occupied t.latchDi, j < s.count := by
  have taken := dispatchStage_slotsDispatched h
  have width : s.latchR.length = s.config.issueWidth := hsize.latchRLength
  have latchDi : t.latchDi = s.latchR.map (Option.filter fun h => s.renamed h) :=
    eq_map_filter_of_slotAt (taken.widthDi.trans width.symm) fun i hi => by
      rw [taken.slotsDi i (width ▸ hi), if_pos (width ▸ hi)]
  have held : occupied t.latchDi = s.renamedSlots s.config.issueWidth := by
    rw [latchDi, occupied_map_filter, State.renamedSlots, ← width, filterMap_range_filter_slotAt]
  refine ⟨?_, held ▸ taken.stamped, fun j hj => ?_⟩
  · rw [latchDi, occupied_map_filter, hs.latch_ranges.1]
    exact List.Pairwise.filter _ (List.pairwise_lt_range' ..)
  · rw [latchDi, occupied_map_filter] at hj
    exact hs.lt_count_of_mem_latchR (List.mem_of_mem_filter hj)

theorem OrderedTick.dispatched {s₁ s₂ s₃ s₄ s₅ s₆ s₇ : State} (h : OrderedTick s s₁ s₂ s₃ s₄ s₅ s₆ s₇)
    (hord : Ordered s) (hs : Timed s) : DiHoldsLastDispatched s₇.finish := by
  obtain ⟨aC, aW, aIS, -, aR, aDc, aF⟩ := h.advances hord
  obtain ⟨sorted, stamped, inTable⟩ := h.ordered₃.dispatchStage_latchDi h.sized₃ h.dispatch
  have latch : s₇.latchDi = s₄.latchDi := calc
    s₇.latchDi = s₆.latchDi := (congrArg State.latchDi (fetchStage_frame h.fetch) :)
    _ = s₅.latchDi := (congrArg State.latchDi (decodeStage_frame h.decode) :)
    _ = s₄.latchDi := (congrArg State.latchDi (renameStage_frame h.rename) :)
  have cycle₃ : s₃.currentCycle = s.currentCycle := aIS.cycle.trans (aW.cycle.trans aC.cycle)
  have cycle : s₇.currentCycle = s.currentCycle :=
    aF.cycle.trans (aDc.cycle.trans (aR.cycle.trans (stamped.cycle.trans cycle₃)))
  have before : ∀ j, s₃.stampOf .Di j = s.stampOf .Di j := fun j => by
    rw [aIS.others .Di (by decide), aW.others .Di (by decide), aC.others .Di (by decide)]
  have after : ∀ j, s₇.stampOf .Di j = s₄.stampOf .Di j := fun j => by
    rw [aF.others .Di (by decide), aDc.others .Di (by decide), aR.others .Di (by decide)]
  have count : s₇.count = s₃.count := aF.count.trans (aDc.count.trans (aR.count.trans stamped.count))
  have stamps : ∀ j < s₃.count, j ∈ occupied s₇.latchDi ↔ s₇.stampOf .Di j = some s.currentCycle := fun j hj => by
    rw [latch, after, stamped.stampOf_self hj, cycle₃]
    by_cases hmem : j ∈ occupied s₄.latchDi
    · simp [hmem]
    · rw [if_neg hmem, before]
      exact ⟨fun hm => absurd hm hmem, fun hv => absurd (hs.stamp_lt hv) (Nat.lt_irrefl _)⟩
  refine ⟨latch ▸ sorted, fun j hj => (inTable j (latch ▸ hj)).trans_eq count.symm, fun j hj => ?_⟩
  rw [State.finish_currentCycle, cycle]
  refine (stamps j (count ▸ hj)).trans ⟨fun hv => ⟨_, hv, rfl⟩, ?_⟩
  rintro ⟨v, hv, hnow⟩
  cases Nat.succ.inj hnow
  exact hv

theorem Timed.of_step (hshape : Shaped s) (hord : Ordered s) (hs : Timed s) (h : step s = .next t) : Timed t := by
  have width := hs.widthBound_of_step h
  obtain ⟨-, ⟨-, rfl⟩ | ⟨hdone, h⟩⟩ := advance_eq_next h
  · exact hs
  · have config := (Onward.tick hshape.fromTrace h).config
    obtain ⟨s₁, s₂, s₃, s₄, s₅, s₆, s₇, stages, rfl⟩ := hord.tick_stages hshape.sized h
    have stamps := stages.stamps hord
    have ordered : Ordered s₇.finish := stages.ordered₇.finish
    have undone : s.completedCount ≠ s.count := fun hall => by
      rw [State.done, hall, hshape.sized.count, beq_self_eq_true] at hdone
      cases hdone
    have committed := hord.counters
    refine ⟨fun j hj => stamps.monotone hs hord (stamps.count ▸ hj), fun j _ => stamps.past hs j,
      stamps.inOrder hs ordered, width, stages.dispatched hord hs, fun hzero => ?_, fun hend j hj hlast => ?_⟩
    · rw [stamps.count] at hzero
      omega
    · have all : s₇.finish.completedCount = s₇.finish.count := by
        rw [stages.sized₇.finish.count]
        exact beq_iff_eq.1 hend
      have passed : s₇.finish.passed .C j := (ordered.passed_C hj).2 (all ▸ hj)
      rw [stamps.count] at hj hlast
      have unpassed : ¬ s.passed .C j := fun hp => by
        have := (hord.passed_C hj).1 hp
        omega
      exact ⟨_, (stamps.fresh .C j unpassed passed).1, stamps.cycle.symm⟩

/-- Settles O41: `TickStamps` gives each clause of the layer. -/
theorem stepKeepsTheStamps : Obligations.StepKeepsTheStamps := fun _ _ hshape hord hs h => hs.of_step hshape hord h

end

end Sys2Proof.Machine

/-! # The registers (48_invariants.md section 2)

Commit and Writeback change who holds a register by one stamp each, and Rename by taking the head of the free list; the
other stages change neither the tables nor who holds what (`SameRegisters`). -/

namespace Sys2Proof.Machine

open Sys2Proof

/-! ### What Rename writes of a record -/

/-- The instruction and the renamed fields: all of a record but the stamps and the fetch index. -/
def Record.names (r : Record) : Instr × Option Nat × Option Src × Option Src :=
  (r.instr, r.physDst, r.physSrc1, r.physSrc2)

/-- The records of `t` have the instructions and the renamed fields of those of `s`. -/
def SameNames (s t : State) : Prop :=
  ∀ j : Nat, (t.recs[j]?).map Record.names = (s.recs[j]?).map Record.names

section
variable {s t u : State}

theorem SameNames.of_recs_eq (h : t.recs = s.recs) : SameNames s t := fun j => by rw [h]

theorem SameNames.trans (h : SameNames s t) (h' : SameNames t u) : SameNames s u := fun j => (h' j).trans (h j)

theorem StampedAll.sameNames {st : Stage} {hs : List Nat} (h : StampedAll st hs s t) : SameNames s t := fun j => by
  rw [h.recs]
  cases s.recs[j]? with
  | none => rfl
  | some r =>
    rw [Option.map_some, Option.map_some, Option.map_some]
    split <;> rfl

variable (h : SameNames s t)
include h

theorem SameNames.producesAt (j : Nat) : t.producesAt j = s.producesAt j := by
  have := congrArg (fun o => (o.map fun n => n.1.produces).getD false) (h j)
  simp only [Option.map_map] at this
  exact this

theorem SameNames.physDstOf (j : Nat) : t.physDstOf j = s.physDstOf j := by
  have := congrArg (fun o => o.bind fun n => n.2.1) (h j)
  simp only [Option.bind_map] at this
  exact this

/-- Each record of `t` is one of `s` with other stamps. -/
theorem SameNames.getElem? {j : Nat} {r' : Record} (hr : t.recs[j]? = some r') :
    ∃ r, s.recs[j]? = some r ∧ r.names = r'.names := by
  have := h j
  rw [hr, Option.map_some] at this
  obtain ⟨r, hr, hn⟩ := Option.map_eq_some_iff.1 this.symm
  exact ⟨r, hr, hn⟩

end

/-! ### The layer, said with stamps -/

theorem State.holds_iff {s : State} {j p : Nat} :
    s.holds j p = true ↔ s.producesAt j = true ∧ s.passed .R j ∧ ¬ s.passed .C j ∧ s.physDstOf j = some p := by
  rw [State.holds, State.inFlight, Bool.and_eq_true, Bool.and_eq_true, Bool.and_eq_true, beq_iff_eq,
    Option.isNone_iff_eq_none, ← Option.not_isSome_iff_eq_none, and_assoc, and_assoc]

/-- The renamed fields of instruction `j` are filled exactly when it is renamed; a producing one then has a register of
`32 … P-1`. -/
theorem fieldsFilled_iff {s : State} {j : Nat} {r : Record} (hr : s.recs[j]? = some r) :
    FieldsFilled s j ↔
      ((r.physDst.isSome = true ↔ s.passed .R j) ∧ (r.physSrc1.isSome = true ↔ s.passed .R j) ∧
        (r.physSrc2.isSome = true ↔ s.passed .R j) ∧
        (r.instr.produces = true → ∀ p ∈ r.physDst, archRegCount ≤ p ∧ p < s.config.physRegCount)) := by
  have filled : ∀ b : Bool, b = r.cycle.R.isSome ↔ (b = true ↔ s.passed .R j) := fun b => by
    rw [State.passed, State.stampOf_of_getElem? hr .R, Bool.eq_iff_iff]
    rfl
  simp only [FieldsFilled, hr, Option.mem_some_iff, forall_eq', filled]

theorem RegistersSound.range {s : State} (hs : RegistersSound s) {j p : Nat} (hp : s.producesAt j = true)
    (hd : s.physDstOf j = some p) : archRegCount ≤ p ∧ p < s.config.physRegCount := by
  obtain ⟨r, hr, hd⟩ := Option.bind_eq_some_iff.1 hd
  rw [State.producesAt, hr] at hp
  obtain ⟨-, -, -, range⟩ := hs.filled j (List.getElem?_eq_some_iff.1 hr).1 r hr
  exact range hp p hd

section
variable {s t : State}

/-- The renamed fields are filled through a stage that changes neither them nor a stamp of Rename. -/
theorem fieldsFilled_of_sameNames (hn : SameNames s t) (hR : ∀ j, t.passed .R j ↔ s.passed .R j)
    (hc : t.config = s.config) {j : Nat} (hs : FieldsFilled s j) : FieldsFilled t j := by
  intro r' hr'
  obtain ⟨r, hr, hnames⟩ := hn.getElem? hr'
  simp only [Record.names, Prod.mk.injEq] at hnames
  obtain ⟨instr, dst, src1, src2⟩ := hnames
  have filled := (fieldsFilled_iff hr).1 hs
  refine (fieldsFilled_iff hr').2 ?_ r' hr'
  rw [← instr, ← dst, ← src1, ← src2, hR, hc]
  exact filled

/-- What the layer says but for the fields of the records: free list, ready table, and who holds what. -/
structure SameRegisters (s t : State) : Prop where
  config : t.config = s.config
  count : t.count = s.count
  names : SameNames s t
  renamed : ∀ j, t.passed .R j ↔ s.passed .R j
  written : ∀ j, t.passed .W j ↔ s.passed .W j
  committed : ∀ j, t.passed .C j ↔ s.passed .C j
  rdy : t.rdy = s.rdy
  free : t.free = s.free

/-- A stage that does not change who holds what. -/
theorem holds_congr (hn : SameNames s t) (hR : ∀ j, t.passed .R j ↔ s.passed .R j)
    (hC : ∀ j, t.passed .C j ↔ s.passed .C j) (j p : Nat) : t.holds j p = s.holds j p := by
  rw [Bool.eq_iff_iff, State.holds_iff, State.holds_iff, hn.producesAt, hn.physDstOf, hR, hC]

theorem RegistersSound.of_same (hs : RegistersSound s) (h : SameRegisters s t) : RegistersSound t := by
  have holds := holds_congr h.names h.renamed h.committed
  refine ⟨fun j hj => ?_, ?_, fun p hp harch => ?_, fun p hp j hj => ?_, fun i hi j hj p hp => ?_, fun p hp => ?_⟩
  · rw [h.count] at hj
    exact fieldsFilled_of_sameNames h.names h.renamed h.config (hs.filled j hj)
  · rw [FreeListSound, h.free, h.config]
    exact hs.freeList
  · rw [h.config] at hp
    simp only [h.free, h.count, holds]
    exact hs.covered p hp harch
  · rw [h.free] at hp
    rw [h.count] at hj
    rw [holds]
    exact hs.freeNotHeld p hp j hj
  · rw [h.count] at hi hj
    rw [h.config] at hp
    rw [holds, holds]
    exact hs.heldOnce i hi j hj p hp
  · rw [h.config] at hp
    simp only [h.rdy, h.count, holds, h.written]
    exact hs.ready p hp

/-! ### Commit -/

/-- The registers that committed instructions give back: they held them. -/
theorem holds_of_mem_ownRegs {L : List Nat} {p : Nat} (hL : ∀ j ∈ L, s.passed .R j ∧ ¬ s.passed .C j)
    (hp : p ∈ s.ownRegs L) : ∃ j ∈ L, s.holds j p = true := by
  obtain ⟨j, hj, hprod, hdst⟩ := State.mem_ownRegs.1 hp
  exact ⟨j, hj, State.holds_iff.2 ⟨hprod, (hL j hj).1, (hL j hj).2, hdst⟩⟩

theorem mem_ownRegs_of_holds {L : List Nat} {j p : Nat} (hj : j ∈ L) (hp : s.holds j p = true) : p ∈ s.ownRegs L := by
  obtain ⟨hprod, -, -, hdst⟩ := State.holds_iff.1 hp
  exact State.mem_ownRegs.2 ⟨j, hj, hprod, hdst⟩

/-- Instructions in flight own each register once. -/
theorem RegistersSound.ownRegs_nodup (hs : RegistersSound s) {L : List Nat} (hnodup : L.Nodup)
    (hL : ∀ j ∈ L, s.passed .R j ∧ ¬ s.passed .C j) : (s.ownRegs L).Nodup := by
  rw [State.ownRegs, List.nodup_flatMap]
  refine ⟨fun j _ => ?_, hnodup.imp_of_mem fun {i j} hi hj hij p hpi hpj => ?_⟩
  · rw [State.ownReg]
    split
    · cases s.physDstOf j with
      | none => exact List.nodup_nil
      | some p => exact List.nodup_singleton p
    · exact List.nodup_nil
  · have own : ∀ {k}, p ∈ s.ownReg (s.producesAt k) k → p ∈ s.ownRegs [k] := fun h =>
      List.mem_flatMap.2 ⟨_, List.mem_singleton_self _, h⟩
    obtain ⟨i', hi', holds⟩ := holds_of_mem_ownRegs (L := [i]) (by simpa using hL i hi) (own hpi)
    obtain ⟨j', hj', holds'⟩ := holds_of_mem_ownRegs (L := [j]) (by simpa using hL j hj) (own hpj)
    cases List.mem_singleton.1 hi'
    cases List.mem_singleton.1 hj'
    obtain ⟨hprod, hR, -, hdst⟩ := State.holds_iff.1 holds
    obtain ⟨-, hR', -, -⟩ := State.holds_iff.1 holds'
    exact hij (hs.heldOnce i (State.lt_count_of_passed hR) j (State.lt_count_of_passed hR') p (hs.range hprod hdst).2
      ⟨holds, holds'⟩)

theorem readyBit_setReady_eq_false {rdy : List Bool} {p : Nat} (hp : p < rdy.length) (ps : List Nat) :
    readyBit (setReady rdy ps) p = false ↔ readyBit rdy p = false ∧ p ∉ ps := by
  rw [← Bool.not_eq_true, readyBit_setReady_of_lt hp, not_or, Bool.not_eq_true]

theorem RegistersSound.commitStage (hs : RegistersSound s) (hord : Ordered s) (hsize : Sized s)
    (h : Machine.commitStage s = .next t) : RegistersSound t := by
  have advances := hord.commitStage_advances h
  have config : t.config = s.config := (congrArg State.config (commitStage_frame h) :)
  obtain ⟨stamped, -, -, hfree, hrdy⟩ := commitWalk_retired h
  obtain ⟨distinct, taken⟩ := hord.retired_ready s.config.issueWidth
  generalize (s.rob.take (min s.config.issueWidth (s.rob.takeWhile ROBEntry.ready).length)).map ROBEntry.instrRef = L
    at stamped hfree hrdy distinct taken
  have inFlight : ∀ j ∈ L, s.passed .R j ∧ ¬ s.passed .C j := fun j hj =>
    ⟨hord.renamed_of_issued (hord.issued_of_written (State.lt_count_of_passed (taken j hj).1) (taken j hj).1),
      (taken j hj).2⟩
  have names := stamped.sameNames
  have committed : ∀ j < s.count, t.passed .C j ↔ s.passed .C j ∨ j ∈ L := fun j hj => stamped.passedMore.self hj
  have holds : ∀ j p, t.holds j p = true ↔ s.holds j p = true ∧ j ∉ L := fun j p => by
    rw [State.holds_iff, State.holds_iff, names.producesAt, names.physDstOf, advances.passed_of_ne (by decide)]
    refine ⟨fun ⟨hp, hR, hC, hd⟩ => ?_, fun ⟨⟨hp, hR, hC, hd⟩, hL⟩ => ?_⟩
    · rw [committed j (State.lt_count_of_passed hR), not_or] at hC
      exact ⟨⟨hp, hR, hC.1, hd⟩, hC.2⟩
    · rw [committed j (State.lt_count_of_passed hR), not_or]
      exact ⟨hp, hR, ⟨hC, hL⟩, hd⟩
  have owner : ∀ p ∈ s.ownRegs L, ∃ i ∈ L, i < s.count ∧ p < s.config.physRegCount ∧ s.holds i p = true := by
    intro p hp
    obtain ⟨i, hi, hheld⟩ := holds_of_mem_ownRegs inFlight hp
    obtain ⟨hprod, hR, -, hdst⟩ := State.holds_iff.1 hheld
    exact ⟨i, hi, State.lt_count_of_passed hR, (hs.range hprod hdst).2, hheld⟩
  have notHeld : ∀ p ∈ s.ownRegs L, ∀ j, t.holds j p = false := fun p hp j => Bool.eq_false_iff.2 fun hheld => by
    obtain ⟨hbefore, hj⟩ := (holds j p).1 hheld
    obtain ⟨i, hi, hcount, hlt, hown⟩ := owner p hp
    have inTable := State.lt_count_of_passed (State.holds_iff.1 hbefore).2.1
    exact hj (hs.heldOnce i hcount j inTable p hlt ⟨hown, hbefore⟩ ▸ hi)
  refine ⟨fun j hj => ?_, ⟨?_, fun p hp => ?_⟩, fun p hp harch => ?_, fun p hp j hj => ?_,
    fun i hi j hj p hp ⟨hpi, hpj⟩ => ?_, fun p hp => ?_⟩
  · rw [advances.count] at hj
    exact fieldsFilled_of_sameNames names (fun _ => advances.passed_of_ne (by decide)) config (hs.filled j hj)
  · rw [hfree]
    refine List.nodup_append.2 ⟨hs.freeList.1, hs.ownRegs_nodup distinct inFlight, fun p hp q hq hpq => ?_⟩
    obtain ⟨i, -, hcount, -, hheld⟩ := owner q hq
    subst hpq
    exact Bool.eq_false_iff.1 (hs.freeNotHeld p hp i hcount) hheld
  · rw [hfree, List.mem_append] at hp
    rw [config]
    obtain hp | hp := hp
    · exact hs.freeList.2 p hp
    · obtain ⟨i, -, -, -, hheld⟩ := owner p hp
      obtain ⟨hprod, -, -, hdst⟩ := State.holds_iff.1 hheld
      exact hs.range hprod hdst
  · rw [config] at hp
    rw [hfree, List.mem_append, advances.count]
    obtain hp | ⟨j, hj, hheld⟩ := hs.covered p hp harch
    · exact .inl (.inl hp)
    · by_cases hL : j ∈ L
      · exact .inl (.inr (mem_ownRegs_of_holds hL hheld))
      · exact .inr ⟨j, hj, (holds j p).2 ⟨hheld, hL⟩⟩
  · rw [hfree, List.mem_append] at hp
    rw [advances.count] at hj
    obtain hp | hp := hp
    · exact Bool.eq_false_iff.2 fun hheld =>
        Bool.eq_false_iff.1 (hs.freeNotHeld p hp j hj) ((holds j p).1 hheld).1
    · exact notHeld p hp j
  · rw [advances.count] at hi hj
    rw [config] at hp
    exact hs.heldOnce i hi j hj p hp ⟨((holds i p).1 hpi).1, ((holds j p).1 hpj).1⟩
  · rw [config] at hp
    rw [hrdy, readyBit_setReady_eq_false (hsize.rdyLength ▸ hp), hs.ready p hp, advances.count]
    constructor
    · rintro ⟨⟨j, hj, hheld, hW⟩, hp⟩
      refine ⟨j, hj, (holds j p).2 ⟨hheld, fun hL => hW (taken j hL).1⟩, ?_⟩
      rwa [advances.passed_of_ne (by decide)]
    · rintro ⟨j, hj, hheld, hW⟩
      rw [advances.passed_of_ne (by decide)] at hW
      refine ⟨⟨j, hj, ((holds j p).1 hheld).1, hW⟩, fun hp => ?_⟩
      rw [notHeld p hp j] at hheld
      cases hheld

/-! ### Writeback -/

theorem RegistersSound.writebackStage (hs : RegistersSound s) (hord : Ordered s) (hsize : Sized s)
    (h : Machine.writebackStage s = .next t) : RegistersSound t := by
  have advances := hord.writebackStage_advances h
  have frame := writebackStage_frame h
  have config : t.config = s.config := (congrArg State.config frame :)
  have free : t.free = s.free := (congrArg State.free frame :)
  obtain ⟨stamped, -, -, -, hrdy⟩ := writebackStage_drained hord.queues.2.2.2 h
  rw [List.take_length] at stamped hrdy
  have names := stamped.sameNames
  have holds : ∀ j p, t.holds j p = s.holds j p :=
    holds_congr names (fun _ => advances.passed_of_ne (by decide)) fun _ => advances.passed_of_ne (by decide)
  have inFlight : ∀ j ∈ s.wbq, s.passed .R j ∧ ¬ s.passed .C j := fun j hj => by
    have inTable := hord.handles.2 j hj
    obtain ⟨hIS, hW⟩ := (hord.mem_wbq inTable).1 hj
    exact ⟨hord.renamed_of_issued hIS, fun hC => hW (hord.passed_before inTable rfl hC)⟩
  refine ⟨fun j hj => ?_, ?_, fun p hp harch => ?_, fun p hp j hj => ?_, fun i hi j hj p hp => ?_, fun p hp => ?_⟩
  · rw [advances.count] at hj
    exact fieldsFilled_of_sameNames names (fun _ => advances.passed_of_ne (by decide)) config (hs.filled j hj)
  · rw [FreeListSound, free, config]
    exact hs.freeList
  · rw [config] at hp
    simp only [free, advances.count, holds]
    exact hs.covered p hp harch
  · rw [free] at hp
    rw [advances.count] at hj
    rw [holds]
    exact hs.freeNotHeld p hp j hj
  · rw [advances.count] at hi hj
    rw [config] at hp
    rw [holds, holds]
    exact hs.heldOnce i hi j hj p hp
  · rw [config] at hp
    rw [hrdy, readyBit_setReady_eq_false (hsize.rdyLength ▸ hp), hs.ready p hp, advances.count]
    constructor
    · rintro ⟨⟨j, hj, hheld, hW⟩, hout⟩
      refine ⟨j, hj, (holds j p).trans hheld, fun hW' => ?_⟩
      exact ((stamped.passedMore.self hj).1 hW').elim hW fun hmem => hout (mem_ownRegs_of_holds hmem hheld)
    · rintro ⟨j, hj, hheld, hW⟩
      rw [holds] at hheld
      rw [stamped.passedMore.self hj, not_or] at hW
      refine ⟨⟨j, hj, hheld, hW.1⟩, fun hp' => ?_⟩
      obtain ⟨i, hi, hheld'⟩ := holds_of_mem_ownRegs inFlight hp'
      exact hW.2 (hs.heldOnce i (hord.handles.2 i hi) j hj p hp ⟨hheld', hheld⟩ ▸ hi)

/-! ### Rename -/

theorem readyBit_set_false {rdy : List Bool} {p : Nat} (hp : p < rdy.length) (q : Nat) :
    readyBit (rdy.set p false) q = if q = p then false else readyBit rdy q := by
  rw [readyBit, readyBit, List.getD_eq_getElem?_getD, List.getD_eq_getElem?_getD, List.getElem?_set]
  by_cases hq : p = q
  · subst hq
    simp [hp]
  · simp [hq, Ne.symm hq]

section
variable {h p : Nat} {r : Record} (ht : RenameCompleted s h r p t)
include ht

theorem RenameCompleted.config : t.config = s.config := (congrArg State.config ht.frame :)

theorem RenameCompleted.producesAt (j : Nat) : t.producesAt j = s.producesAt j := by
  by_cases hj : j = h
  · rw [hj, State.producesAt, State.producesAt, ht.getElem?_self, ht.record]
    rfl
  · rw [State.producesAt, State.producesAt, ht.getElem?_of_ne hj]

theorem RenameCompleted.producesAt_self : s.producesAt h = r.instr.produces := by
  rw [State.producesAt, ht.record]
  rfl

theorem RenameCompleted.physDstOf (j : Nat) : t.physDstOf j = if j = h then some p else s.physDstOf j := by
  by_cases hj : j = h
  · rw [hj, if_pos rfl, State.physDstOf, ht.getElem?_self]
    rfl
  · rw [if_neg hj, State.physDstOf, State.physDstOf, ht.getElem?_of_ne hj]

/-- What the renamed instruction holds afterwards, and all others as before. -/
theorem RenameCompleted.holds (hC : ¬ s.passed .C h) (j q : Nat) :
    t.holds j q = true ↔ if j = h then r.instr.produces = true ∧ q = p else s.holds j q = true := by
  have committed : t.passed .C j ↔ s.passed .C j := by rw [State.passed, ht.stampOf, if_neg (by simp)]
  rw [State.holds_iff, ht.producesAt, ht.physDstOf, committed]
  by_cases hj : j = h
  · subst hj
    have renamed : t.passed .R j := by rw [State.passed, ht.stampOf, if_pos ⟨rfl, rfl⟩]; rfl
    rw [if_pos rfl, if_pos rfl, ht.producesAt_self, Option.some.injEq]
    exact ⟨fun ⟨hp, _, _, hq⟩ => ⟨hp, hq.symm⟩, fun ⟨hp, hq⟩ => ⟨hp, renamed, hC, hq.symm⟩⟩
  · have same : t.passed .R j ↔ s.passed .R j := by rw [State.passed, ht.stampOf, if_neg fun hc => hj hc.2]
    rw [if_neg hj, if_neg hj, same, State.holds_iff]

theorem RenameCompleted.filled (hs : RegistersSound s)
    (hp : r.instr.produces = true → archRegCount ≤ p ∧ p < s.config.physRegCount) {j : Nat} (hj : j < s.count) :
    FieldsFilled t j := by
  by_cases hjh : j = h
  · subst hjh
    intro r' hr'
    cases ht.getElem?_self.symm.trans hr'
    refine ⟨rfl, rfl, rfl, fun hprod q hq => ?_⟩
    cases hq
    rw [ht.config]
    exact hp hprod
  · intro r' hr'
    rw [ht.getElem?_of_ne hjh] at hr'
    rw [ht.config]
    exact hs.filled j hj r' hr'

end

/-- An instruction that is not renamed is not committed. -/
theorem Ordered.not_committed (hord : Ordered s) {j : Nat} (hR : ¬ s.passed .R j) : ¬ s.passed .C j := fun hC =>
  have hj := State.lt_count_of_passed hC
  hR (hord.renamed_of_issued (hord.issued_of_written hj (hord.passed_before hj rfl hC)))

/-- A rename that takes no register. -/
theorem RegistersSound.rename_none {h p : Nat} {r : Record} (hs : RegistersSound s) (hC : ¬ s.passed .C h)
    (hR : ¬ s.passed .R h) (ht : RenameCompleted s h r p t) (hprod : r.instr.produces = false) (hrdy : t.rdy = s.rdy)
    (hfree : t.free = s.free) : RegistersSound t := by
  have holds : ∀ j q, t.holds j q = s.holds j q := fun j q => by
    rw [Bool.eq_iff_iff, ht.holds hC]
    split
    · next hj => simp [hprod, State.holds_iff, hj, hR]
    · exact Iff.rfl
  have written : ∀ j, t.passed .W j ↔ s.passed .W j := fun j => by rw [State.passed, ht.stampOf, if_neg (by simp)]
  refine ⟨fun j hj => ht.filled hs (fun hp => by rw [hprod] at hp; cases hp) (ht.count ▸ hj), ?_, ?_, ?_, ?_, ?_⟩
  · rw [FreeListSound, hfree, ht.config]
    exact hs.freeList
  · simpa only [RegistersCovered, hfree, ht.count, ht.config, holds] using hs.covered
  · simpa only [FreeNotHeld, hfree, ht.count, holds] using hs.freeNotHeld
  · simpa only [HeldOnce, ht.count, ht.config, holds] using hs.heldOnce
  · simpa only [ReadyTableSound, hrdy, ht.count, ht.config, holds, written] using hs.ready

/-- A rename that takes the head of the free list. -/
theorem RegistersSound.rename_alloc {h p : Nat} {r : Record} {rest : List Nat} (hs : RegistersSound s)
    (hlen : s.rdy.length = s.config.physRegCount) (hC : ¬ s.passed .C h) (hR : ¬ s.passed .R h)
    (hW : ¬ s.passed .W h) (ht : RenameCompleted s h r p t) (hprod : r.instr.produces = true) (hfree : s.free = p :: rest)
    (hrdy : t.rdy = s.rdy.set p false) (hrest : t.free = rest) : RegistersSound t := by
  have inFree : p ∈ s.free := hfree ▸ List.mem_cons_self
  have range := hs.freeList.2 p inFree
  obtain ⟨notAgain, distinct⟩ := List.nodup_cons.1 (hfree ▸ hs.freeList.1)
  have fromFree : ∀ q ∈ rest, q ∈ s.free := fun q hq => hfree ▸ List.mem_cons_of_mem p hq
  have pending : ∀ q, s.holds h q = false := fun q => Bool.eq_false_iff.2 fun hheld => hR (State.holds_iff.1 hheld).2.1
  have holds := ht.holds hC
  simp only [hprod, true_and] at holds
  have written : ∀ j, t.passed .W j ↔ s.passed .W j := fun j => by rw [State.passed, ht.stampOf, if_neg (by simp)]
  have unheld : ∀ j < s.count, s.holds j p ≠ true := fun j hj => Bool.eq_false_iff.1 (hs.freeNotHeld p inFree j hj)
  refine ⟨fun j hj => ht.filled hs (fun _ => range) (ht.count ▸ hj), ⟨hrest ▸ distinct, fun q hq => ?_⟩,
    fun q hq harch => ?_, fun q hq j hj => ?_, fun i hi j hj q hq ⟨hqi, hqj⟩ => ?_, fun q hq => ?_⟩
  · rw [ht.config]
    exact hs.freeList.2 q (fromFree q (hrest ▸ hq))
  · rw [ht.config] at hq
    rw [hrest, ht.count]
    by_cases hqp : q = p
    · exact .inr ⟨h, ht.lt_count, (holds h q).2 (by rw [if_pos rfl]; exact hqp)⟩
    · obtain hmem | ⟨j, hj, hheld⟩ := hs.covered q hq harch
      · rw [hfree, List.mem_cons] at hmem
        exact .inl (hmem.resolve_left hqp)
      · have other : j ≠ h := fun hjh => by rw [hjh, pending] at hheld; cases hheld
        exact .inr ⟨j, hj, (holds j q).2 (by rwa [if_neg other])⟩
  · rw [hrest] at hq
    rw [ht.count] at hj
    refine Bool.eq_false_iff.2 fun hheld => ?_
    have := (holds j q).1 hheld
    split at this
    · exact notAgain (this ▸ hq)
    · exact Bool.eq_false_iff.1 (hs.freeNotHeld q (fromFree q hq) j hj) this
  · rw [ht.count] at hi hj
    rw [ht.config] at hq
    have hi' := (holds i q).1 hqi
    have hj' := (holds j q).1 hqj
    by_cases hih : i = h <;> by_cases hjh : j = h
    · exact hih.trans hjh.symm
    · rw [if_pos hih] at hi'
      rw [if_neg hjh, hi'] at hj'
      exact absurd hj' (unheld j hj)
    · rw [if_pos hjh] at hj'
      rw [if_neg hih, hj'] at hi'
      exact absurd hi' (unheld i hi)
    · rw [if_neg hih] at hi'
      rw [if_neg hjh] at hj'
      exact hs.heldOnce i hi j hj q hq ⟨hi', hj'⟩
  · rw [ht.config] at hq
    rw [hrdy, readyBit_set_false (hlen ▸ range.2), ht.count]
    by_cases hqp : q = p
    · rw [if_pos hqp]
      refine ⟨fun _ => ⟨h, ht.lt_count, (holds h q).2 (by rwa [if_pos rfl]), ?_⟩, fun _ => rfl⟩
      rwa [written]
    · rw [if_neg hqp, hs.ready q hq]
      refine exists_congr fun j => and_congr_right fun _ => ?_
      rw [holds, written]
      split
      · next hj => simp [hj, pending, hqp]
      · exact Iff.rfl

theorem RegistersSound.renameCompleted {h p : Nat} {r : Record} (hs : RegistersSound s) (hord : Ordered s)
    (hlen : s.rdy.length = s.config.physRegCount) (hR : ¬ s.passed .R h) (ht : RenameCompleted s h r p t) :
    RegistersSound t ∧ t.rdy.length = t.config.physRegCount := by
  have hC := hord.not_committed hR
  have hW : ¬ s.passed .W h := fun hW =>
    hR (hord.renamed_of_issued (hord.issued_of_written (State.lt_count_of_passed hW) hW))
  obtain ⟨d, rest, hd, hfree, -, hrdy, hrest⟩ | ⟨hprod, -, hrdy, hfree⟩ := ht.tables
  · have hprod : r.instr.produces = true := by rw [← rolesOf_producing ht.wellFormed, hd]; rfl
    refine ⟨hs.rename_alloc hlen hC hR hW ht hprod hfree hrdy hrest, ?_⟩
    rw [hrdy, List.length_set, hlen, ht.config]
  · refine ⟨hs.rename_none hC hR ht hprod hrdy hfree, ?_⟩
    rw [hrdy, hlen, ht.config]

theorem RegistersSound.of_recs_eq (hs : RegistersSound s) (hc : t.config = s.config) (hr : t.recs = s.recs)
    (hrdy : t.rdy = s.rdy) (hfree : t.free = s.free) : RegistersSound t := by
  have same := passed_of_recs_eq hr
  exact hs.of_same ⟨hc, congrArg List.length hr, .of_recs_eq hr, same .R, same .W, same .C, hrdy, hfree⟩

theorem RegistersSound.renameStage (hs : RegistersSound s) (hord : Ordered s) (hsize : Sized s)
    (h : Machine.renameStage s = .next t) : RegistersSound t :=
  (renameStage_keeps_ordered (P := fun u => RegistersSound u ∧ u.rdy.length = u.config.physRegCount)
    (fun u _ ⟨hu, hlen⟩ => ⟨hu.of_recs_eq u.takeGroup_config u.takeGroup_recs u.takeGroup_rdy u.takeGroup_free,
      by rw [u.takeGroup_rdy, u.takeGroup_config, hlen]⟩)
    (fun _ _ _ ⟨hu, hlen⟩ => ⟨hu.of_recs_eq rfl rfl rfl rfl, hlen⟩)
    (fun _ _ _ _ _ ordered ⟨hu, hlen⟩ done _ hn _ => hu.renameCompleted ordered hlen hn done)
    hord ⟨hs, hsize.rdyLength⟩ h).2.1

/-! ### The other stages -/

/-- A stage that stamps issue, dispatch or decode and writes no table. -/
theorem StampedAll.sameRegisters {st : Stage} {hs : List Nat} (h : StampedAll st hs s t)
    (hst : st = .IS ∨ st = .Di ∨ st = .Dc) (hc : t.config = s.config) (hrdy : t.rdy = s.rdy) (hfree : t.free = s.free) :
    SameRegisters s t := by
  have same : ∀ x, x ≠ st → ∀ j, t.passed x j ↔ s.passed x j := fun x hx j => by
    rw [State.passed, h.stampOf_of_ne hx]
  refine ⟨hc, h.count, h.sameNames, same .R ?_, same .W ?_, same .C ?_, hrdy, hfree⟩ <;>
  · rintro rfl
    obtain h | h | h := hst <;> cases h

theorem issueStage_sameRegisters (h : issueStage s = .next t) : SameRegisters s t :=
  have frame := issueStage_frame h
  (issueStage_iq h).1.sameRegisters (.inl rfl) (congrArg State.config frame :) (congrArg State.rdy frame :)
    (congrArg State.free frame :)

theorem dispatchStage_sameRegisters (h : dispatchStage s = .next t) : SameRegisters s t :=
  have frame := dispatchStage_frame h
  (dispatchStage_slotsDispatched h).stamped.sameRegisters (.inr (.inl rfl)) (congrArg State.config frame :)
    (congrArg State.rdy frame :) (congrArg State.free frame :)

theorem SameRegisters.refl (s : State) : SameRegisters s s :=
  ⟨rfl, rfl, .of_recs_eq rfl, fun _ => Iff.rfl, fun _ => Iff.rfl, fun _ => Iff.rfl, rfl, rfl⟩

theorem decodeStage_sameRegisters (hsize : Sized s) (h : decodeStage s = .next t) : SameRegisters s t := by
  cases hDc : latchEmpty s.latchDc with
  | false => exact decodeStage_of_latchDc_full hDc h ▸ .refl s
  | true =>
    have frame := decodeStage_frame h
    exact (decodeStage_moved hsize hDc h).1.sameRegisters (.inr (.inr rfl)) (congrArg State.config frame :)
      (congrArg State.rdy frame :) (congrArg State.free frame :)

/-- A record that is not renamed is, but for the stamps, the one that Fetch would write. -/
theorem names_of_not_renamed {j : Nat} {r : Record} (hr : s.recs[j]? = some r) (hfilled : FieldsFilled s j)
    (hR : ¬ s.passed .R j) : r.names = (r.instr, none, none, none) := by
  obtain ⟨dst, src1, src2, -⟩ := (fieldsFilled_iff hr).1 hfilled
  have empty : ∀ {α : Type} {o : Option α}, (o.isSome = true ↔ s.passed .R j) → o = none := fun h =>
    Option.not_isSome_iff_eq_none.1 fun hsome => hR (h.1 hsome)
  rw [Record.names, empty dst, empty src1, empty src2]

theorem Ordered.fetchStage_sameRegisters (hord : Ordered s) (hsize : Sized s)
    (hfilled : ∀ j < s.count, FieldsFilled s j) (h : Machine.fetchStage s = .next t) : SameRegisters s t := by
  have advances := hord.fetchStage_advances hsize h
  have frame := fetchStage_frame h
  refine ⟨(congrArg State.config frame :), advances.count, fun j => ?_, fun _ => advances.passed_of_ne (by decide),
    fun _ => advances.passed_of_ne (by decide), fun _ => advances.passed_of_ne (by decide),
    (congrArg State.rdy frame :), (congrArg State.free frame :)⟩
  cases hF : latchEmpty s.latchF with
  | false => rw [fetchStage_of_latchF_full hF h]
  | true =>
    have filled := fetchStage_groupFetched hF hsize.count h
    generalize min s.config.issueWidth (s.config.trace.length - s.fetchOffset) = n at filled
    by_cases hj : s.fetchOffset ≤ j ∧ j < s.fetchOffset + n
    · obtain ⟨i, hi, hr'⟩ := filled.fetched j hj.1 hj.2
      rw [← hsize.fromTrace, List.getElem?_map] at hi
      obtain ⟨r, hr, rfl⟩ := Option.map_eq_some_iff.1 hi
      have inTable := (List.getElem?_eq_some_iff.1 hr).1
      rw [hr', hr, Option.map_some, Option.map_some,
        names_of_not_renamed hr (hfilled j inTable) (hord.not_passed_of_le hj.1 .R)]
      rfl
    · rw [filled.kept j (by omega)]

/-! ### The tick -/

/-- The layer of the registers at every point of a tick. -/
structure RegistersTick (s₁ s₂ s₃ s₄ s₅ s₆ s₇ : State) : Prop where
  sound₁ : RegistersSound s₁
  sound₂ : RegistersSound s₂
  sound₃ : RegistersSound s₃
  sound₄ : RegistersSound s₄
  sound₅ : RegistersSound s₅
  sound₆ : RegistersSound s₆
  sound₇ : RegistersSound s₇

theorem OrderedTick.registers {s s₁ s₂ s₃ s₄ s₅ s₆ s₇ : State} (h : OrderedTick s s₁ s₂ s₃ s₄ s₅ s₆ s₇)
    (hord : Ordered s) (hsize : Sized s) (hs : RegistersSound s) : RegistersTick s₁ s₂ s₃ s₄ s₅ s₆ s₇ := by
  have cleared : RegistersSound s.clearWires := hs.of_recs_eq rfl rfl rfl rfl
  have r₁ := cleared.commitStage hord.clearWires hsize.clearWires h.commit
  have r₂ := r₁.writebackStage h.ordered₁ h.sized₁ h.writeback
  have r₃ := r₂.of_same (issueStage_sameRegisters h.issue)
  have r₄ := r₃.of_same (dispatchStage_sameRegisters h.dispatch)
  have r₅ := r₄.renameStage h.ordered₄ h.sized₄ h.rename
  have r₆ := r₅.of_same (decodeStage_sameRegisters h.sized₅ h.decode)
  have r₇ := r₆.of_same (h.ordered₆.fetchStage_sameRegisters h.sized₆ r₆.filled h.fetch)
  exact ⟨r₁, r₂, r₃, r₄, r₅, r₆, r₇⟩

/-- Settles O42: every stage keeps the layer of the registers. -/
theorem stepKeepsTheRegisters : Obligations.StepKeepsTheRegisters := by
  intro s t hshape hord hs h
  obtain ⟨-, ⟨-, rfl⟩ | ⟨-, h⟩⟩ := advance_eq_next h
  · exact hs
  · obtain ⟨s₁, s₂, s₃, s₄, s₅, s₆, s₇, stages, rfl⟩ := hord.tick_stages hshape.sized h
    exact (stages.registers hord hshape.sized hs).sound₇.of_recs_eq rfl rfl rfl rfl

/-! ### What is written once -/

/-- The stages before Rename, and those after it, keep the names of all records. -/
theorem OrderedTick.sameNames {s s₁ s₂ s₃ s₄ s₅ s₆ s₇ : State} (h : OrderedTick s s₁ s₂ s₃ s₄ s₅ s₆ s₇)
    (hs : RegistersSound s₆) : SameNames s s₄ ∧ SameNames s₅ s₇ := by
  have n₁ : SameNames s s₁ := (commitWalk_retired h.commit).stamped.sameNames
  have n₂ := n₁.trans (writebackStage_drained h.ordered₁.queues.2.2.2 h.writeback).stamped.sameNames
  have n₃ := n₂.trans (issueStage_sameRegisters h.issue).names
  have n₄ := n₃.trans (dispatchStage_sameRegisters h.dispatch).names
  exact ⟨n₄, (decodeStage_sameRegisters h.sized₅ h.decode).names.trans
    (h.ordered₆.fetchStage_sameRegisters h.sized₆ hs.filled h.fetch).names⟩

/-- Rename writes no record that is renamed. -/
theorem Ordered.renameStage_keeps_renamed (hord : Ordered s) (h : Machine.renameStage s = .next t) {j : Nat}
    (hj : s.passed .R j) : t.recs[j]? = s.recs[j]? :=
  ((renameStage_keeps_ordered (P := fun u => u.passed .R j ∧ u.recs[j]? = s.recs[j]?)
    (fun u _ ⟨hR, hu⟩ => ⟨by rwa [State.passed, State.stampOf, u.takeGroup_recs], by rw [u.takeGroup_recs, hu]⟩)
    (fun _ _ _ hu => hu)
    (fun u h r p v _ ⟨hR, hu⟩ done _ hn _ => by
      have other : j ≠ h := fun hjh => hn (hjh ▸ hR)
      refine ⟨?_, (done.getElem?_of_ne other).trans hu⟩
      rwa [State.passed, done.stampOf, if_neg fun hc => other hc.2])
    hord ⟨hj, rfl⟩ h).2).2

/-- Settles O50: `TickStamps` for the stamps, and the names of the records for the renamed fields. -/
theorem stampsAreWrittenOnce : Obligations.StampsAreWrittenOnce := by
  intro s t hs h j hj
  obtain ⟨-, ⟨-, rfl⟩ | ⟨-, h⟩⟩ := advance_eq_next h
  · refine ⟨fun _ _ hv => hv, fun _ r hr r' hr' => ?_⟩
    cases hr.symm.trans hr'
    exact ⟨rfl, rfl, rfl⟩
  · obtain ⟨s₁, s₂, s₃, s₄, s₅, s₆, s₇, stages, rfl⟩ := hs.ordered.tick_stages hs.shaped.sized h
    have stamps := stages.stamps hs.ordered
    have registers := stages.registers hs.ordered hs.shaped.sized hs.registers
    refine ⟨fun st v hv => (stamps.kept st j (by rw [State.passed, hv]; rfl)).trans hv, fun hR r hr r' hr' => ?_⟩
    obtain ⟨aC, aW, aIS, aDi, -, -, -⟩ := stages.advances hs.ordered
    obtain ⟨before, after⟩ := stages.sameNames registers.sound₆
    have renamed : s₅.recs[j]? = s₄.recs[j]? :=
      stages.ordered₄.renameStage_keeps_renamed stages.rename (aDi.passed (aIS.passed (aW.passed (aC.passed hR))))
    have same := after j
    rw [renamed, before j, hr, show s₇.recs[j]? = some r' from hr', Option.map_some, Option.map_some,
      Option.some.injEq, Record.names, Record.names] at same
    simp only [Prod.mk.injEq] at same
    exact same.2

end

end Sys2Proof.Machine

/-! # The mapping and the sources (48_invariants.md sections 2 and 4)

When the instructions below `n` are renamed and no other, the map table names the register of the youngest producing one
below `n`; and so the sources of instruction `n` are renamed to the youngest older producers. -/

namespace Sys2Proof.Machine

open Sys2Proof

/-! ### The operands of a well-formed record -/

/-- The operand of a source position. -/
def Roles.operand (ro : Roles) : Bool → Operand
  | true => ro.src1
  | false => ro.src2

/-- The operand of a source position is the register that the position names, or its immediate. -/
theorem rolesOf_operand {i : Instr} (hwf : i.wellFormed = true) (pos : Bool) :
    (∃ a : Fin 32, i.sourceReg pos = some a.val ∧ (rolesOf i).operand pos = .reg a) ∨
    (i.sourceReg pos = none ∧ (rolesOf i).operand pos = .imm (i.sourceImm pos)) := by
  have named : ∀ {v : Int}, regInRange v = true → v.toNat = ((archReg v).getD 0).val := fun hv => by
    rw [archReg_eq_some hv]
    rfl
  cases i with
  | regOp a b c =>
    simp only [Instr.wellFormed, Bool.and_eq_true] at hwf
    cases pos with
    | true => exact .inl ⟨_, congrArg some (named hwf.1.2), rfl⟩
    | false => exact .inl ⟨_, congrArg some (named hwf.2), rfl⟩
  | immOp a b v =>
    simp only [Instr.wellFormed, Bool.and_eq_true] at hwf
    cases pos with
    | true => exact .inl ⟨_, congrArg some (named hwf.2), rfl⟩
    | false => exact .inr ⟨rfl, rfl⟩
  | load a v c =>
    simp only [Instr.wellFormed, Bool.and_eq_true] at hwf
    cases pos with
    | true => exact .inr ⟨rfl, rfl⟩
    | false => exact .inl ⟨_, congrArg some (named hwf.2), rfl⟩
  | store a v c =>
    simp only [Instr.wellFormed, Bool.and_eq_true] at hwf
    cases pos with
    | true => exact .inr ⟨rfl, rfl⟩
    | false => exact .inl ⟨_, congrArg some (named hwf.2), rfl⟩

/-- The register that a producing instruction maps is its `op1`. -/
theorem op1_of_rolesOf_dst {i : Instr} (hwf : i.wellFormed = true) {d : Fin 32} (hd : (rolesOf i).dst = .alloc d) :
    i.op1 = (d.val : Int) := by
  have key : ∀ {v : Int}, regInRange v = true → Dest.ofReg ((archReg v).getD 0) = .alloc d → v = (d.val : Int) := by
    intro v hv h
    rw [archReg_eq_some hv, Option.getD_some, Dest.ofReg] at h
    have hrange := regInRange_iff.1 hv
    split at h
    · cases h
    · cases h
      exact (Int.toNat_of_nonneg hrange.1).symm
  cases i with
  | regOp a b c =>
    simp only [Instr.wellFormed, Bool.and_eq_true] at hwf
    exact key hwf.1.1 hd
  | immOp a b v =>
    simp only [Instr.wellFormed, Bool.and_eq_true] at hwf
    exact key hwf.1 hd
  | load a v c =>
    simp only [Instr.wellFormed, Bool.and_eq_true] at hwf
    exact key hwf.1 hd
  | store a v c => cases hd

/-! ### The youngest producer below -/

/-- The instruction writes architectural register `a` (10_state.md R23). -/
def Record.writes (a : Nat) (r : Record) : Bool := r.instr.produces && r.instr.op1 == (a : Int)

theorem Record.mapsTo_eq (a : Nat) (r : Record) : r.mapsTo a = (r.cycle.R.isSome && r.writes a) := Bool.and_assoc _ _ _

section
variable {s t : State}

theorem State.producerBefore_succ (s : State) {j : Nat} {r : Record} (hr : s.recs[j]? = some r) (a : Nat) :
    s.producerBefore (j + 1) a = if r.writes a = true then some j else s.producerBefore j a := by
  rw [State.producerBefore, List.range_succ, List.reverse_append, List.reverse_singleton, List.singleton_append,
    List.find?_cons, hr, Option.map_some, Option.getD_some, ← State.producerBefore, ← Record.writes]
  cases r.writes a <;> rfl

theorem State.lt_of_producerBefore {j a q : Nat} (h : s.producerBefore j a = some q) : q < j := by
  have := List.mem_of_find?_eq_some h
  simpa using this

theorem State.writes_of_producerBefore {j a q : Nat} (h : s.producerBefore j a = some q) :
    ∃ r, s.recs[q]? = some r ∧ r.writes a = true := by
  have := List.find?_some h
  obtain hnone | ⟨r, hr⟩ := Option.eq_none_or_eq_some s.recs[q]?
  · simp [hnone] at this
  · rw [hr] at this
    exact ⟨r, hr, this⟩

theorem State.producesAt_of_producerBefore {j a q : Nat} (h : s.producerBefore j a = some q) :
    s.producesAt q = true := by
  obtain ⟨r, hr, hw⟩ := State.writes_of_producerBefore h
  rw [State.producesAt, hr]
  exact (Bool.and_eq_true_iff.1 hw).1

/-- The producers are read off the instructions alone. -/
theorem State.producerBefore_congr (h : t.recs.map Record.instr = s.recs.map Record.instr) (j a : Nat) :
    t.producerBefore j a = s.producerBefore j a := by
  have same : ∀ i : Nat, (t.recs[i]?).map Record.instr = (s.recs[i]?).map Record.instr := fun i => by
    rw [← List.getElem?_map, ← List.getElem?_map, h]
  refine congrArg (fun f => (List.range j).reverse.find? f) (funext fun i => ?_)
  have := congrArg (Option.map fun x : Instr => x.produces && x.op1 == (a : Int)) (same i)
  simp only [Option.map_map] at this
  exact congrArg (Option.getD · false) this

/-- The register that the youngest producer of `a` below `n` has; `a` itself when there is none. -/
def State.registerBefore (s : State) (n a : Nat) : Nat := ((s.producerBefore n a).bind (s.physDstOf ·)).getD a

/-- Exactly the instructions below `n` are renamed. -/
def RenamedBelow (n : Nat) (s : State) : Prop := ∀ j < s.count, s.passed .R j ↔ j < n

/-- The last of the first `n` records that satisfies `p`, by its index. -/
theorem getLast?_filter_take (rs : List Record) (p : Record → Bool) {n : Nat} (hn : n ≤ rs.length) :
    ((rs.take n).filter p).getLast? =
      ((List.range n).reverse.find? fun i => ((rs[i]?).map p).getD false).bind (rs[·]?) := by
  induction n with
  | zero => rfl
  | succ n ih =>
    have hlt : n < rs.length := hn
    rw [List.take_succ_eq_append_getElem hlt, List.filter_append, List.range_succ, List.reverse_append,
      List.reverse_singleton, List.singleton_append, List.find?_cons, List.getElem?_eq_getElem hlt, Option.map_some,
      Option.getD_some]
    cases hp : p rs[n] with
    | true => simp [hp, List.getElem?_eq_getElem hlt]
    | false => simp [hp, ih (Nat.le_of_lt hlt)]

/-- What R220 says of the map table, where exactly the instructions below `n` are renamed. -/
theorem mappingAfter_of_renamedBelow {n : Nat} (hn : n ≤ s.count) (h : RenamedBelow n s) (a : Nat) :
    mappingAfter a s.recs = s.registerBefore n a := by
  have renamed : ∀ j (hj : j < s.count), (s.recs[j].cycle.R.isSome = true ↔ j < n) := fun j hj => by
    rw [← h j hj, State.passed, State.stampOf_of_getElem? (List.getElem?_eq_getElem hj)]
    rfl
  have front : (s.recs.take n).filter (Record.mapsTo a) = (s.recs.take n).filter (Record.writes a) := by
    refine List.filter_congr fun r hr => ?_
    obtain ⟨j, hj, rfl⟩ := List.mem_iff_getElem.1 hr
    rw [List.length_take] at hj
    rw [List.getElem_take, Record.mapsTo_eq, (renamed j (by omega)).2 (by omega), Bool.true_and]
  have back : (s.recs.drop n).filter (Record.mapsTo a) = [] := by
    refine List.filter_eq_nil_iff.2 fun r hr hm => ?_
    obtain ⟨j, hj, rfl⟩ := List.mem_iff_getElem.1 hr
    rw [List.length_drop] at hj
    have inTable : n + j < s.recs.length := by omega
    rw [List.getElem_drop, Record.mapsTo_eq, Bool.and_eq_true, renamed (n + j) inTable] at hm
    omega
  have all : s.recs.filter (Record.mapsTo a) = (s.recs.take n).filter (Record.writes a) := by
    conv_lhs => rw [← List.take_append_drop n s.recs]
    rw [List.filter_append, front, back, List.append_nil]
  rw [mappingAfter, all, getLast?_filter_take _ _ hn, Option.bind_assoc]
  rfl

/-! ### Stages other than Rename -/

/-- What the mapping is read off: whether a record is renamed, and its names. -/
def Record.mappingView (r : Record) : Bool × (Instr × Option Nat × Option Src × Option Src) :=
  (r.cycle.R.isSome, r.names)

theorem mappingAfter_of_map_mappingView {rs rs' : List Record}
    (h : rs'.map Record.mappingView = rs.map Record.mappingView) (a : Nat) : mappingAfter a rs' = mappingAfter a rs := by
  have read : ∀ l : List Record, mappingAfter a l =
      (((l.map Record.mappingView).filter fun x => x.1 && (x.2.1.produces && x.2.1.op1 == (a : Int))).getLast?.bind
        fun x => x.2.2.1).getD a := fun l => by
    have mapsTo : Record.mapsTo a =
        (fun x => x.1 && (x.2.1.produces && x.2.1.op1 == (a : Int))) ∘ Record.mappingView := funext (Record.mapsTo_eq a)
    rw [mappingAfter, mapsTo, List.filter_map, List.getLast?_map, Option.bind_map]
    rfl
  rw [read, read, h]

theorem mappingAfter_congr (hn : SameNames s t) (hR : ∀ j, t.passed .R j ↔ s.passed .R j) (a : Nat) :
    mappingAfter a t.recs = mappingAfter a s.recs := by
  refine mappingAfter_of_map_mappingView (List.ext_getElem? fun j => ?_) a
  rw [List.getElem?_map, List.getElem?_map]
  have names := hn j
  have renamed := hR j
  simp only [State.passed, State.stampOf] at renamed
  cases hs : s.recs[j]? with
  | none =>
    rw [hs, Option.map_none, Option.map_eq_none_iff] at names
    rw [names]
  | some r =>
    rw [hs, Option.map_some] at names
    obtain ⟨r', ht, hnames⟩ := Option.map_eq_some_iff.1 names
    rw [hs, ht, Option.bind_some, Option.bind_some] at renamed
    rw [ht, Option.map_some, Option.map_some, Record.mappingView, Record.mappingView, hnames,
      Bool.eq_iff_iff.2 (show r'.cycle.R.isSome = true ↔ r.cycle.R.isSome = true from renamed)]

/-- What only Rename writes: the map table, the names of the records and the stamp of Rename. -/
structure SameMapping (s t : State) : Prop where
  map : t.map = s.map
  names : SameNames s t
  renamed : ∀ j, t.passed .R j ↔ s.passed .R j

theorem SameMapping.trans {u : State} (h : SameMapping s t) (h' : SameMapping t u) : SameMapping s u :=
  ⟨h'.map.trans h.map, h.names.trans h'.names, fun j => (h'.renamed j).trans (h.renamed j)⟩

theorem MapSound.of_same (hs : MapSound s) (h : SameMapping s t) : MapSound t := fun a => by
  rw [h.map, mappingAfter_congr h.names h.renamed]
  exact hs a

theorem SameNames.map_instr (hn : SameNames s t) : t.recs.map Record.instr = s.recs.map Record.instr := by
  refine List.ext_getElem? fun j => ?_
  have := congrArg (Option.map fun n => n.1) (hn j)
  simp only [Option.map_map] at this
  rw [List.getElem?_map, List.getElem?_map]
  exact this

theorem Record.source_eq_of_names {r r' : Record} (h : r.names = r'.names) (pos : Bool) :
    r.source pos = r'.source pos := by
  simp only [Record.names, Prod.mk.injEq] at h
  obtain ⟨-, -, src1, src2⟩ := h
  cases pos with
  | true => exact src1
  | false => exact src2

/-- The renamed form of a source position of an instruction at place `j` (R152, R226). -/
def State.sourceOf (s : State) (j : Nat) (i : Instr) (pos : Bool) : Option Src :=
  match i.sourceReg pos with
  | none => some (.imm (i.sourceImm pos))
  | some a =>
    match s.producerBefore j a with
    | none => some (.reg a)
    | some q => (s.physDstOf q).map Src.reg

theorem sourceRenamed_iff {j : Nat} {r : Record} {pos : Bool} :
    SourceRenamed s j r pos ↔ r.source pos = s.sourceOf j r.instr pos := Iff.rfl

section
variable {i : Instr} {pos : Bool} {j a : Nat}

theorem State.sourceOf_of_imm (h : i.sourceReg pos = none) : s.sourceOf j i pos = some (.imm (i.sourceImm pos)) := by
  rw [State.sourceOf, h]

theorem State.sourceOf_of_no_producer (h : i.sourceReg pos = some a) (hq : s.producerBefore j a = none) :
    s.sourceOf j i pos = some (.reg a) := by
  simp only [State.sourceOf, h, hq]

theorem State.sourceOf_of_producer {q : Nat} (h : i.sourceReg pos = some a) (hq : s.producerBefore j a = some q) :
    s.sourceOf j i pos = (s.physDstOf q).map Src.reg := by
  simp only [State.sourceOf, h, hq]

/-- The renamed form is read off the instructions and the registers of the older ones. -/
theorem State.sourceOf_congr (hi : t.recs.map Record.instr = s.recs.map Record.instr)
    (hd : ∀ q < j, t.physDstOf q = s.physDstOf q) (i : Instr) (pos : Bool) : t.sourceOf j i pos = s.sourceOf j i pos := by
  have producer := State.producerBefore_congr hi j
  cases ha : i.sourceReg pos with
  | none => rw [State.sourceOf_of_imm ha, State.sourceOf_of_imm ha]
  | some a =>
    cases hq : s.producerBefore j a with
    | none => rw [State.sourceOf_of_no_producer ha hq, State.sourceOf_of_no_producer ha ((producer a).trans hq)]
    | some q =>
      rw [State.sourceOf_of_producer ha hq, State.sourceOf_of_producer ha ((producer a).trans hq),
        hd q (State.lt_of_producerBefore hq)]

end

theorem SourcesRenamed.of_same (hs : SourcesRenamed s) (h : SameMapping s t) : SourcesRenamed t := by
  obtain ⟨-, hn, hR⟩ := h
  intro j _ r' hr' hrenamed pos hpos
  obtain ⟨r, hr, hnames⟩ := hn.getElem? hr'
  have instr : r.instr = r'.instr := congrArg Prod.fst hnames
  have passed : s.passed .R j := (hR j).1 (by rw [State.passed, State.stampOf_of_getElem? hr']; exact hrenamed)
  have before := hs j (List.getElem?_eq_some_iff.1 hr).1 r hr
    (by rwa [State.passed, State.stampOf_of_getElem? hr] at passed) pos hpos
  rw [sourceRenamed_iff, Record.source_eq_of_names hnames, instr] at before
  rw [sourceRenamed_iff, State.sourceOf_congr hn.map_instr fun q _ => hn.physDstOf q]
  exact before

/-! ### Rename -/

section
variable {h p : Nat} {r : Record} (hord : Ordered s) (older : ∀ i < h, s.passed .R i) (hR : ¬ s.passed .R h)
  (ht : RenameCompleted s h r p t)

theorem RenameCompleted.map_instr (ht : RenameCompleted s h r p t) :
    t.recs.map Record.instr = s.recs.map Record.instr := by
  rw [ht.recs]
  exact map_instr_set ht.record rfl

/-- The youngest producer below the next instruction is this one, or as before. -/
theorem RenameCompleted.registerBefore_succ (ht : RenameCompleted s h r p t) (a : Nat) :
    t.registerBefore (h + 1) a = if r.writes a = true then p else s.registerBefore h a := by
  have recorded : t.producerBefore (h + 1) a = if r.writes a = true then some h else s.producerBefore h a := by
    rw [State.producerBefore_congr ht.map_instr, s.producerBefore_succ ht.record]
  rw [State.registerBefore, recorded]
  split
  · rw [Option.bind_some, ht.physDstOf, if_pos rfl, Option.getD_some]
  · rw [State.registerBefore]
    cases hq : s.producerBefore h a with
    | none => rfl
    | some q =>
      have := State.lt_of_producerBefore hq
      rw [Option.bind_some, Option.bind_some, ht.physDstOf, if_neg (by omega)]

include hord older hR

theorem Ordered.renamedBelow : RenamedBelow h s := fun j hj =>
  ⟨fun hp => Nat.lt_of_not_le fun hle => by
    obtain rfl | hlt := Nat.eq_or_lt_of_le hle
    · exact hR hp
    · exact hR (hord.renames j hj hp h hlt), older j⟩

include ht

theorem RenameCompleted.renamedBelow_succ : RenamedBelow (h + 1) t := fun j hj => by
  rw [ht.count] at hj
  rw [ht.passedMore.self hj, hord.renamedBelow older hR j hj, List.mem_singleton]
  omega

/-- Where all older instructions are renamed, the map table names the registers of the youngest producers below. -/
theorem MapSound.eq_registerBefore (hs : MapSound s) (a : Fin 32) : s.map[a] = s.registerBefore h a :=
  (hs a).trans (mappingAfter_of_renamedBelow ht.lt_count.le (hord.renamedBelow older hR) a)

theorem MapSound.renameCompleted (hs : MapSound s) : MapSound t := by
  intro a
  have room : h + 1 ≤ t.count := by
    rw [ht.count]
    exact ht.lt_count
  rw [mappingAfter_of_renamedBelow room (ht.renamedBelow_succ hord older hR), ht.registerBefore_succ,
    ← hs.eq_registerBefore hord older hR ht]
  obtain ⟨d, rest, hd, -, hmap, -⟩ | ⟨hprod, hmap, -⟩ := ht.tables
  · have op1 := op1_of_rolesOf_dst ht.wellFormed hd
    have produces : r.instr.produces = true := by rw [← rolesOf_producing ht.wellFormed, hd]; rfl
    rw [hmap, Record.writes, produces, op1, Bool.true_and]
    by_cases had : d = a
    · subst had
      simp
    · have other : (d : Nat) ≠ a := fun h => had (Fin.ext h)
      rw [Fin.getElem_fin, Vector.getElem_set_ne _ _ other]
      simp [other]
  · rw [hmap, Record.writes, hprod]
    rfl

/-- The register that the map table names for a source is that of the youngest older producer. -/
theorem RenameCompleted.source (hmap : MapSound s) (hf : ∀ j < s.count, FieldsFilled s j) (pos : Bool) :
    (s.renamedRecord r p).source pos = s.sourceOf h r.instr pos := by
  have operand : (s.renamedRecord r p).source pos = some (((rolesOf r.instr).operand pos).resolve s.map) := by
    cases pos <;> rfl
  rw [operand]
  obtain ⟨a, hreg, hop⟩ | ⟨hreg, hop⟩ := rolesOf_operand ht.wellFormed pos
  · rw [hop, Operand.resolve, hmap.eq_registerBefore hord older hR ht, State.registerBefore]
    cases hq : s.producerBefore h a with
    | none => exact (State.sourceOf_of_no_producer hreg hq).symm
    | some q =>
      have below := State.lt_of_producerBefore hq
      have inTable : q < s.count := below.trans ht.lt_count
      have filled := ((fieldsFilled_iff (List.getElem?_eq_getElem inTable)).1 (hf q inTable)).1.2 (older q below)
      obtain ⟨d, hd⟩ := Option.isSome_iff_exists.1 filled
      have named : s.physDstOf q = some d := by rw [State.physDstOf, List.getElem?_eq_getElem inTable]; exact hd
      rw [State.sourceOf_of_producer hreg hq, Option.bind_some, named]
      rfl
  · rw [hop, State.sourceOf_of_imm hreg]
    rfl

theorem SourcesRenamed.renameCompleted (hs : SourcesRenamed s) (hmap : MapSound s)
    (hf : ∀ j < s.count, FieldsFilled s j) : SourcesRenamed t := by
  intro j hj r' hr' hrenamed pos hpos
  have bound : j < h + 1 := (ht.renamedBelow_succ hord older hR j hj).1 <| by
    rw [State.passed, State.stampOf_of_getElem? hr']
    exact hrenamed
  rw [sourceRenamed_iff, State.sourceOf_congr (s := s) ht.map_instr fun q hq => by rw [ht.physDstOf, if_neg (by omega)]]
  by_cases hjh : j = h
  · subst hjh
    cases ht.getElem?_self.symm.trans hr'
    exact ht.source hord older hR hmap hf pos
  · rw [ht.getElem?_of_ne hjh] at hr'
    exact hs j (ht.count ▸ hj) r' hr' hrenamed pos hpos

end

/-! ### The tick -/

/-- The layers from the registers to the sources, and the length of the ready table. -/
structure SourcesSound (s : State) : Prop where
  registers : RegistersSound s
  rdyLength : s.rdy.length = s.config.physRegCount
  mapped : MapSound s
  sources : SourcesRenamed s

theorem MapSound.renameStage (hs : MapSound s) (hord : Ordered s) (h : Machine.renameStage s = .next t) : MapSound t :=
  (renameStage_keeps_ordered (P := MapSound)
    (fun u _ hu => by rwa [MapSound, u.takeGroup_map, u.takeGroup_recs])
    (fun _ _ _ hu => hu) (fun _ _ _ _ _ ordered hu done _ hn older => hu.renameCompleted ordered older hn done)
    hord hs h).2

theorem SourcesSound.renameStage (hs : SourcesSound s) (hord : Ordered s) (h : Machine.renameStage s = .next t) :
    SourcesSound t := by
  refine (renameStage_keeps_ordered (P := SourcesSound) (fun u _ hu => ?_)
    (fun u k x hu => ⟨hu.registers.of_recs_eq rfl rfl rfl rfl, hu.rdyLength, hu.mapped, hu.sources⟩)
    (fun u x r p v ordered hu done _ hn older => ?_) hord hs h).2
  · have same : SameMapping u u.takeGroup :=
      ⟨u.takeGroup_map, .of_recs_eq u.takeGroup_recs, passed_of_recs_eq u.takeGroup_recs .R⟩
    exact ⟨hu.registers.of_recs_eq u.takeGroup_config u.takeGroup_recs u.takeGroup_rdy u.takeGroup_free,
      by rw [u.takeGroup_rdy, u.takeGroup_config, hu.rdyLength], hu.mapped.of_same same, hu.sources.of_same same⟩
  · obtain ⟨registers, rdyLength⟩ := hu.registers.renameCompleted ordered hu.rdyLength hn done
    exact ⟨registers, rdyLength, hu.mapped.renameCompleted ordered older hn done,
      hu.sources.renameCompleted ordered older hn done hu.mapped hu.registers.filled⟩

/-- The stages before Rename, and those after it, leave the mapping alone. -/
theorem OrderedTick.sameMapping {s₁ s₂ s₃ s₄ s₅ s₆ s₇ : State} (h : OrderedTick s s₁ s₂ s₃ s₄ s₅ s₆ s₇)
    (hord : Ordered s) (hs : RegistersSound s₆) : SameMapping s s₄ ∧ SameMapping s₅ s₇ := by
  obtain ⟨before, after⟩ := h.sameNames hs
  obtain ⟨aC, aW, aIS, aDi, -, aDc, aF⟩ := h.advances hord
  refine ⟨⟨?_, before, fun j => ?_⟩, ⟨?_, after, fun j => ?_⟩⟩
  · calc s₄.map = s₃.map := (congrArg State.map (dispatchStage_frame h.dispatch) :)
      _ = s₂.map := (congrArg State.map (issueStage_frame h.issue) :)
      _ = s₁.map := (congrArg State.map (writebackStage_frame h.writeback) :)
      _ = s.map := (congrArg State.map (commitStage_frame h.commit) :)
  · rw [aDi.passed_of_ne (by decide), aIS.passed_of_ne (by decide), aW.passed_of_ne (by decide),
      aC.passed_of_ne (by decide)]
  · calc s₇.map = s₆.map := (congrArg State.map (fetchStage_frame h.fetch) :)
      _ = s₅.map := (congrArg State.map (decodeStage_frame h.decode) :)
  · rw [aF.passed_of_ne (by decide), aDc.passed_of_ne (by decide)]

theorem sameMapping_finish (s : State) : SameMapping s s.finish := ⟨rfl, .of_recs_eq rfl, fun _ => Iff.rfl⟩

/-- Settles O43: the map table follows the renames, and no other stage touches what it is read off. -/
theorem stepKeepsTheMapping : Obligations.StepKeepsTheMapping := by
  intro s t hshape hord hreg hs h
  obtain ⟨-, ⟨-, rfl⟩ | ⟨-, h⟩⟩ := advance_eq_next h
  · exact hs
  · obtain ⟨s₁, s₂, s₃, s₄, s₅, s₆, s₇, stages, rfl⟩ := hord.tick_stages hshape.sized h
    have registers := stages.registers hord hshape.sized hreg
    obtain ⟨before, after⟩ := stages.sameMapping hord registers.sound₆
    exact ((hs.of_same before).renameStage stages.ordered₄ stages.rename).of_same (after.trans (sameMapping_finish s₇))

/-- Settles O44: each rename resolves its sources by a map table that names the youngest older producers. -/
theorem stepKeepsTheSources : Obligations.StepKeepsTheSources := by
  intro s t hshape hord hreg hmap hs h
  obtain ⟨-, ⟨-, rfl⟩ | ⟨-, h⟩⟩ := advance_eq_next h
  · exact hs
  · obtain ⟨s₁, s₂, s₃, s₄, s₅, s₆, s₇, stages, rfl⟩ := hord.tick_stages hshape.sized h
    have registers := stages.registers hord hshape.sized hreg
    obtain ⟨before, after⟩ := stages.sameMapping hord registers.sound₆
    have sound : SourcesSound s₄ :=
      ⟨registers.sound₄, stages.sized₄.rdyLength, hmap.of_same before, hs.of_same before⟩
    exact (sound.renameStage stages.ordered₄ stages.rename).sources.of_same (after.trans (sameMapping_finish s₇))

end

end Sys2Proof.Machine

/-! # Read-after-write order (48_invariants.md section 4)

A ready flag is raised by the tag of an instruction that holds the source's register, or at Dispatch by its ready bit; and
while the producer of a source is in flight no other instruction holds its register. -/

namespace Sys2Proof.Machine

open Sys2Proof

/-! ### The flags -/

theorem rolesOf_waits {i : Instr} : (rolesOf i).waits = true ↔ i.kind ≠ .S := by
  cases i with
  | regOp a b c => exact ⟨nofun, fun _ => rfl⟩
  | immOp a b v => exact ⟨nofun, fun _ => rfl⟩
  | load a v c => exact ⟨nofun, fun _ => rfl⟩
  | store a v c => exact ⟨nofun, fun h => absurd rfl h⟩

/-- The flag of a new entry. -/
theorem entryFor_flag {s : State} {h : Nat} {r : Record} (hr : s.recs[h]? = some r) (age : Nat) (pos : Bool) :
    (s.entryFor h age).flag pos = s.dispatchFlag (rolesOf r.instr).waits (r.source pos) := by
  have waits : s.waitsAt h = (rolesOf r.instr).waits := by rw [State.waitsAt, hr]; rfl
  rw [← waits]
  cases pos with
  | true => exact congrArg (s.dispatchFlag (s.waitsAt h)) (by rw [hr]; rfl)
  | false => exact congrArg (s.dispatchFlag (s.waitsAt h)) (by rw [hr]; rfl)

section
variable {s s₁ s₂ s₃ s₄ s₅ s₆ s₇ : State} (h : OrderedTick s s₁ s₂ s₃ s₄ s₅ s₆ s₇)
include h

theorem OrderedTick.iq₂ : s₂.iq = s.iq :=
  ((congrArg State.iq (writebackStage_frame h.writeback) :) : s₂.iq = s₁.iq).trans
    (congrArg State.iq (commitStage_frame h.commit) :)

theorem OrderedTick.rdy₄ : s₄.rdy = s₂.rdy :=
  ((congrArg State.rdy (dispatchStage_frame h.dispatch) :) : s₄.rdy = s₃.rdy).trans
    (congrArg State.rdy (issueStage_frame h.issue) :)

/-- The queue of the next boundary is the one after Dispatch. -/
theorem OrderedTick.iq₇ : s₇.iq = s₄.iq := calc
  s₇.iq = s₆.iq := (congrArg State.iq (fetchStage_frame h.fetch) :)
  _ = s₅.iq := (congrArg State.iq (decodeStage_frame h.decode) :)
  _ = s₄.iq := (congrArg State.iq (renameStage_frame h.rename) :)

/-- An entry after Dispatch was in the queue before, and its flag was true or its source is on the bus; or it is new, with
the flag of Dispatch. -/
theorem OrderedTick.entry_cases {x : IQEntry} (hx : x ∈ s₄.iq) {r : Record} (hr : s₄.recs[x.instrRef]? = some r)
    (pos : Bool) :
    (∃ e ∈ s.iq, e.instrRef = x.instrRef ∧
      (x.flag pos = true ↔ e.flag pos = true ∨ ∃ p ∈ s₃.wbTags ++ s₃.isTags, r.source pos = some (.reg p))) ∨
    x.flag pos = s₄.dispatchFlag (rolesOf r.instr).waits (r.source pos) := by
  have taken := dispatchStage_slotsDispatched h.dispatch
  have names₄ : SameNames s₃ s₄ := taken.stamped.sameNames
  rw [taken.iq, List.mem_append] at hx
  obtain hold | hnew := hx
  · left
    obtain ⟨-, -, -, entries, -⟩ := wakeupRaisesMatchingFlags s₂ s₃ h.issue
    obtain ⟨e, he, href, -, flags⟩ := entries x hold
    have names₃ := (issueStage_sameRegisters h.issue).names
    obtain ⟨r', hr', hnames⟩ := (names₃.trans names₄).getElem? hr
    have source : r'.source pos = r.source pos := Record.source_eq_of_names hnames pos
    refine ⟨e, h.iq₂ ▸ he, href.symm, ?_⟩
    rw [← source]
    obtain ⟨first, second⟩ := flags r' (href ▸ hr')
    cases pos with
    | true => exact first
    | false => exact second
  · right
    obtain ⟨n, hn, rfl⟩ := List.mem_mapIdx.1 hnew
    rw [← taken.stamped.entryFor taken.rdy] at hr ⊢
    exact entryFor_flag hr _ pos

/-- A register on the bus is held by an instruction that has issued. -/
theorem OrderedTick.tag_owner (hord : Ordered s) {p : Nat} (hp : p ∈ s₃.wbTags ++ s₃.isTags) :
    ∃ i, s₄.holds i p = true ∧ s₄.passed .IS i := by
  obtain ⟨-, aW, aIS, aDi, -⟩ := h.advances hord
  obtain ⟨wbTags, isTags, -⟩ := wakeupRaisesMatchingFlags s₂ s₃ h.issue
  have selection : s₂.selected.flatMap (fun e => s₂.ownReg (s₂.producesAt e.instrRef) e.instrRef) =
      s₂.ownRegs (s₂.selected.map IQEntry.instrRef) := by rw [State.ownRegs, List.flatMap_map]
  have drained := writebackStage_drained h.ordered₁.queues.2.2.2 h.writeback
  have names₂ : SameNames s₁ s₂ := drained.stamped.sameNames
  have names₄ : SameNames s₂ s₄ :=
    (issueStage_sameRegisters h.issue).names.trans (dispatchStage_sameRegisters h.dispatch).names
  have noWbTags : s₁.wbTags = [] := (congrArg State.wbTags (commitStage_frame h.commit) :)
  have noIsTags : s₂.isTags = [] :=
    ((congrArg State.isTags (writebackStage_frame h.writeback) :) : s₂.isTags = s₁.isTags).trans
      (congrArg State.isTags (commitStage_frame h.commit) :)
  rw [wbTags, drained.wbTags, isTags, noWbTags, noIsTags, List.nil_append, List.nil_append, List.take_length,
    selection, List.mem_append] at hp
  have owns : ∀ i, s₂.producesAt i = true → s₂.physDstOf i = some p → s₄.passed .IS i → ¬ s₂.passed .C i →
      s₄.holds i p = true := fun i hprod hdst hIS hC => by
    refine State.holds_iff.2 ⟨?_, h.ordered₄.renamed_of_issued hIS, ?_, ?_⟩
    · rw [names₄.producesAt, hprod]
    · rwa [aDi.passed_of_ne (by decide), aIS.passed_of_ne (by decide)]
    · rw [names₄.physDstOf, hdst]
  obtain hp | hp := hp
  · obtain ⟨i, hi, hprod, hdst⟩ := State.mem_ownRegs.1 hp
    obtain ⟨hIS, hW⟩ := (h.ordered₁.mem_wbq (h.ordered₁.handles.2 i hi)).1 hi
    have issued : s₄.passed .IS i := aDi.passed (aIS.passed (aW.passed hIS))
    refine ⟨i, owns i ?_ ?_ issued fun hC => hW ?_, issued⟩
    · rw [names₂.producesAt, hprod]
    · rw [names₂.physDstOf, hdst]
    · rw [aW.passed_of_ne (by decide)] at hC
      exact h.ordered₁.passed_before (State.lt_count_of_passed hC) rfl hC
  · obtain ⟨i, hi, hprod, hdst⟩ := State.mem_ownRegs.1 hp
    obtain ⟨hDi, hIS⟩ := h.ordered₂.selected_waits hi
    have issued : s₄.passed .IS i := by
      refine aDi.passed (((issueStage_iq h.issue).1.passedMore.self (State.lt_count_of_passed hDi)).2 (.inr hi))
    refine ⟨i, owns i hprod hdst issued fun hC => hIS ?_, issued⟩
    have inTable := State.lt_count_of_passed hC
    exact h.ordered₂.issued_of_written inTable (h.ordered₂.passed_before inTable rfl hC)

end

/-- The register of a source with a producer: the producer's. -/
theorem source_of_producer {s : State} (hreg : RegistersSound s) (hord : Ordered s) (hs : SourcesRenamed s) {j q a : Nat}
    {r : Record} {pos : Bool} (hr : s.recs[j]? = some r) (hR : s.passed .R j) (ha : r.instr.sourceReg pos = some a)
    (hq : s.producerBefore j a = some q) :
    ∃ p, r.source pos = some (.reg p) ∧ s.physDstOf q = some p ∧ s.producesAt q = true ∧ s.passed .R q ∧
      p < s.config.physRegCount := by
  have hj := State.lt_count_of_passed hR
  have older : s.passed .R q := hord.renames j hj hR q (State.lt_of_producerBefore hq)
  have inTable := State.lt_count_of_passed older
  have produces := State.producesAt_of_producerBefore hq
  have filled := ((fieldsFilled_iff (List.getElem?_eq_getElem inTable)).1 (hreg.filled q inTable)).1.2 older
  obtain ⟨p, hp⟩ := Option.isSome_iff_exists.1 filled
  have named : s.physDstOf q = some p := by rw [State.physDstOf, List.getElem?_eq_getElem inTable]; exact hp
  have renamed := sourceRenamed_iff.1 (hs j hj r hr
    (by rwa [State.passed, State.stampOf_of_getElem? hr] at hR) pos (by cases pos <;> decide))
  rw [State.sourceOf_of_producer ha hq, named] at renamed
  exact ⟨p, renamed, named, produces, older, (hreg.range produces named).2⟩

/-- A producer that is committed has issued. -/
theorem Ordered.issued_of_committed {s : State} (hs : Ordered s) {j : Nat} (hC : s.passed .C j) : s.passed .IS j :=
  have hj := State.lt_count_of_passed hC
  hs.issued_of_written hj (hs.passed_before hj rfl hC)

section
variable {s s₁ s₂ s₃ s₄ s₅ s₆ s₇ : State} (h : OrderedTick s s₁ s₂ s₃ s₄ s₅ s₆ s₇) (hinv : Inv s)
include h hinv

/-- A flag that is raised after Dispatch says that the producer has issued. -/
theorem OrderedTick.flagTruthful {x : IQEntry} (hx : x ∈ s₄.iq) {r : Record} (hr : s₄.recs[x.instrRef]? = some r)
    (hS : r.instr.kind ≠ .S) {pos : Bool} {a q : Nat} (ha : r.instr.sourceReg pos = some a)
    (hq : s₄.producerBefore x.instrRef a = some q) (hflag : x.flag pos = true) : s₄.passed .IS q := by
  have registers := h.registers hinv.ordered hinv.shaped.sized hinv.registers
  obtain ⟨same, -⟩ := h.sameMapping hinv.ordered registers.sound₆
  obtain ⟨aC, aW, aIS, aDi, -⟩ := h.advances hinv.ordered
  have inTable := (List.getElem?_eq_some_iff.1 hr).1
  have dispatched := ((h.ordered₄.mem_iq inTable).1 (List.mem_map_of_mem hx)).1
  have renamed := h.ordered₄.passed_before inTable rfl dispatched
  obtain ⟨p, hsource, hdst, hprod, hRq, hp⟩ :=
    source_of_producer registers.sound₄ h.ordered₄ (hinv.sources.of_same same) hr renamed ha hq
  by_cases hC : s₄.passed .C q
  · exact h.ordered₄.issued_of_committed hC
  have held : s₄.holds q p = true := State.holds_iff.2 ⟨hprod, hRq, hC, hdst⟩
  obtain ⟨e, he, href, hiff⟩ | hnew := h.entry_cases hx hr pos
  · obtain hold | ⟨p', hp', hsource'⟩ := hiff.1 hflag
    · obtain ⟨r₀, hr₀, hnames⟩ := same.names.getElem? hr
      have instr : r₀.instr = r.instr := congrArg Prod.fst hnames
      have producer : s.producerBefore x.instrRef a = some q := by
        rw [← State.producerBefore_congr same.names.map_instr, hq]
      have raised : s.flagRaised x.instrRef pos = true :=
        List.any_eq_true.2 ⟨e, he, by rw [href, hold, beq_self_eq_true]; rfl⟩
      obtain ⟨-, truthful⟩ := hinv.dependences x.instrRef (List.getElem?_eq_some_iff.1 hr₀).1 r₀ hr₀ (instr ▸ hS) pos
        (by cases pos <;> decide) a (instr ▸ ha) q producer
      exact aDi.passed (aIS.passed (aW.passed (aC.passed (truthful raised))))
    · cases hsource.symm.trans hsource'
      obtain ⟨i, hheld, hIS⟩ := h.tag_owner hinv.ordered hp'
      exact registers.sound₄.heldOnce i (State.lt_count_of_passed hIS) q (State.lt_count_of_passed hRq) p hp
        ⟨hheld, held⟩ ▸ hIS
  · rw [hnew, rolesOf_waits.2 hS, hsource] at hflag
    by_contra hIS
    have unwritten : ¬ s₄.passed .W q := fun hW => hIS (h.ordered₄.issued_of_written (State.lt_count_of_passed hW) hW)
    have notReady := (registers.sound₄.ready p hp).2 ⟨q, State.lt_count_of_passed hRq, held, unwritten⟩
    rw [show readyBit s₄.rdy p = true from hflag] at notReady
    cases notReady

/-- An instruction that issues in this tick had its flags raised when the tick began. -/
theorem OrderedTick.flagRaised_of_issued {j : Nat} (hn : ¬ s.passed .IS j) (hp : s₃.passed .IS j) (pos : Bool) :
    s.flagRaised j pos = true := by
  obtain ⟨aC, aW, -⟩ := h.advances hinv.ordered
  rw [← aC.passed_of_ne (by decide), ← aW.passed_of_ne (by decide)] at hn
  have stamped := (issueStage_iq h.issue).1
  have inTable : j < s₂.count := stamped.count ▸ State.lt_count_of_passed hp
  have selected := ((stamped.passedMore.self inTable).1 hp).resolve_left hn
  obtain ⟨e, he, rfl⟩ := List.mem_map.1 selected
  obtain ⟨hmem, heligible⟩ := State.mem_iq_of_mem_selected he
  obtain ⟨first, second⟩ := IQEntry.eligible_iff.1 heligible
  refine List.any_eq_true.2 ⟨e, h.iq₂ ▸ hmem, ?_⟩
  cases pos with
  | true => simp [IQEntry.flag, first]
  | false => simp [IQEntry.flag, second]

end

/-- Settles O45: an instruction issues with the flags of the start of the tick, and a raised flag says that the producer
has issued. -/
theorem stepKeepsReadAfterWrite : Obligations.StepKeepsReadAfterWrite := by
  intro s t hinv hstep
  obtain ⟨-, ⟨-, rfl⟩ | ⟨-, hstep⟩⟩ := advance_eq_next hstep
  · exact hinv.dependences
  have instrs : t.recs.map Record.instr = s.recs.map Record.instr :=
    (Onward.tick hinv.shaped.fromTrace hstep).instrs.trans hinv.shaped.fromTrace.symm
  obtain ⟨s₁, s₂, s₃, s₄, s₅, s₆, s₇, h, rfl⟩ := hinv.ordered.tick_stages hinv.shaped.sized hstep
  have stamps := h.stamps hinv.ordered
  have registers := h.registers hinv.ordered hinv.shaped.sized hinv.registers
  obtain ⟨same, -⟩ := h.sameMapping hinv.ordered registers.sound₆
  obtain ⟨-, -, -, aDi, aR, aDc, aF⟩ := h.advances hinv.ordered
  have recorded : ∀ {u : State} {j : Nat} {r' : Record}, u.recs.map Record.instr = s.recs.map Record.instr →
      s.recs[j]? = some r' → ∃ r, u.recs[j]? = some r ∧ r.instr = r'.instr := fun {u j r'} hu hr' => by
    have := congrArg (·[j]?) hu
    simp only [List.getElem?_map, hr', Option.map_some] at this
    exact Option.map_eq_some_iff.1 this
  intro j hj r' hr' hS pos hpos a ha q hq
  rw [stamps.count] at hj
  obtain ⟨r, hr⟩ : ∃ r, s.recs[j]? = some r := ⟨_, List.getElem?_eq_getElem hj⟩
  obtain ⟨r'', hr'', instr⟩ := recorded instrs hr
  cases hr'.symm.trans hr''
  rw [State.producerBefore_congr instrs] at hq
  obtain ⟨after, truthful⟩ := hinv.dependences j hj r hr (instr ▸ hS) pos hpos a (instr ▸ ha) q hq
  refine ⟨fun v hv => ?_, fun hflag => ?_⟩
  · obtain hold | ⟨hn, rfl, -⟩ := stamps.cases hv
    · obtain ⟨u, hu, hle⟩ := after v hold
      exact ⟨u, (stamps.kept .IS q (by rw [State.passed, hu]; rfl)).trans hu, hle⟩
    · have issued : s₃.passed .IS j := by
        have hp : s₇.passed .IS j := by rw [State.passed, show s₇.stampOf .IS j = some _ from hv]; rfl
        rwa [aF.passed_of_ne (by decide), aDc.passed_of_ne (by decide), aR.passed_of_ne (by decide),
          aDi.passed_of_ne (by decide)] at hp
      obtain ⟨u, hu⟩ := Option.isSome_iff_exists.1 (truthful (h.flagRaised_of_issued hinv hn issued pos))
      exact ⟨u, (stamps.kept .IS q (by rw [State.passed, hu]; rfl)).trans hu, hinv.timed.stamp_lt hu⟩
  · obtain ⟨x, hx, hraised⟩ := List.any_eq_true.1 hflag
    rw [Bool.and_eq_true, beq_iff_eq] at hraised
    obtain ⟨rfl, hraised⟩ := hraised
    rw [show s₇.finish.iq = s₄.iq from h.iq₇] at hx
    obtain ⟨r₄, hr₄, instr₄⟩ := recorded same.names.map_instr hr
    rw [← State.producerBefore_congr same.names.map_instr] at hq
    have issued := h.flagTruthful hinv hx hr₄ (instr₄ ▸ instr ▸ hS) (instr₄ ▸ instr ▸ ha) hq hraised
    exact aF.passed (aDc.passed (aR.passed issued))

end Sys2Proof.Machine

/-! # The invariant along a run (48_invariants.md)

It holds after reset and through every step, and says what the final state and the reporter's rows are. -/

namespace Sys2Proof.Machine

open Sys2Proof

/-! ### Reset and step -/

section
variable {c : Config}

theorem not_passed_init (st : Stage) (j : Nat) : ¬ (State.init c).passed st j := by
  rw [State.passed, stampOf_init]
  exact Bool.false_ne_true

theorem holds_init (j p : Nat) : (State.init c).holds j p = false :=
  Bool.eq_false_iff.2 fun h => not_passed_init .R j (State.holds_iff.1 h).2.1

theorem count_init : (State.init c).count = c.trace.length := List.length_map _

/-- The record of a trace entry after reset. -/
theorem getElem?_recs_init {j : Nat} {r : Record} (hr : (State.init c).recs[j]? = some r) :
    ∃ i, c.trace[j]? = some i ∧ r = Record.fresh i := by
  rw [State.init, List.getElem?_map] at hr
  obtain ⟨i, hi, hr⟩ := Option.map_eq_some_iff.1 hr
  exact ⟨i, hi, hr.symm⟩

theorem shaped_init (hc : c.legal = true) : Shaped (State.init c) where
  legal := hc
  fromTrace := by
    rw [State.init, List.map_map]
    exact List.map_id _
  rdyLength := List.length_replicate
  latchFLength := length_emptyLatch _
  latchDcLength := length_emptyLatch _
  latchRLength := length_emptyLatch _
  latchDiLength := length_emptyLatch _
  noWbTags := rfl
  noIsTags := rfl
  atRest := rfl

theorem ordered_init : Ordered (State.init c) := by
  have unpassed : ∀ st j, (State.init c).passed st j ↔ False := fun st j => iff_false_intro (not_passed_init st j)
  refine
    { counters := ⟨le_rfl, le_rfl, Nat.zero_le _⟩
      rob := ⟨rfl, nofun⟩
      latches := ⟨?_, leftPacked_emptyLatch _, leftPacked_emptyLatch _,
        contiguous_of_leftPacked (leftPacked_emptyLatch _)⟩
      queues := ⟨.nil, nofun, .nil, Nat.zero_le _⟩
      handles := ⟨nofun, nofun⟩
      renames := fun j _ hp => absurd hp (not_passed_init .R j)
      nested := fun j _ => stagesNested_iff.2 fun st _ _ hp => absurd hp (not_passed_init st j)
      front := fun j hj => ?_
      inQueues := fun j _ => ?_ }
  · show occupied (emptyLatch _) ++ occupied (emptyLatch _) ++ occupied (emptyLatch _) = []
    simp
  · have index : ((State.init c).recs[j]?).bind Record.fetchIndex = none := by
      obtain ⟨i, -, hr⟩ := getElem?_recs_init (List.getElem?_eq_getElem hj)
      rw [List.getElem?_eq_getElem hj, hr]
      rfl
    refine ⟨(unpassed .F j).trans ?_, (unpassed .Dc j).trans ?_, fun hp => absurd hp (not_passed_init .R j),
      (unpassed .Di j).trans ?_, (unpassed .C j).trans ?_, index⟩ <;> simp [State.init]
  · rw [PlacedInQueues, unpassed, unpassed, unpassed]
    simp [State.init]

theorem timed_init : Timed (State.init c) where
  monotone j _ := by
    simp only [StampsMonotone, LaterBy, NextTick, stampOf_init]
    exact ⟨nofun, nofun, nofun, nofun, nofun, nofun⟩
  past j _ := by
    simp only [StampsPast, stampOf_init]
    exact ⟨fun _ _ => nofun, nofun, nofun⟩
  inOrder st _ j _ i _ v hv := by
    rw [stampOf_init] at hv
    cases hv
  width st _ v hv := absurd hv (Nat.not_lt_zero v)
  dispatched := by
    have none_held : occupied (State.init c).latchDi = [] := occupied_emptyLatch _
    refine ⟨none_held ▸ .nil, none_held ▸ nofun, fun j _ => ?_⟩
    rw [none_held, stampOf_init]
    exact ⟨nofun, fun ⟨_, hv, _⟩ => by cases hv⟩
  ended := ⟨fun _ => rfl, fun hd j hj _ => by
    have : 0 = c.trace.length := beq_iff_eq.1 hd
    rw [count_init] at hj
    omega⟩

theorem registersSound_init : RegistersSound (State.init c) where
  filled j _ r hr := by
    obtain ⟨i, -, rfl⟩ := getElem?_recs_init hr
    exact ⟨rfl, rfl, rfl, fun _ _ hp => by cases hp⟩
  freeList := by
    refine ⟨List.nodup_range' .., fun p hp => ?_⟩
    have := List.mem_range'_1.1 hp
    show archRegCount ≤ p ∧ p < c.physRegCount
    omega
  covered p hp harch := .inl <| List.mem_range'_1.2 <| by
    have : p < c.physRegCount := hp
    omega
  freeNotHeld p _ j _ := holds_init j p
  heldOnce i _ j _ p _ h := by
    rw [holds_init] at h
    cases h.1
  ready p hp := by
    have ready : readyBit (State.init c).rdy p = true := readyBit_replicate hp
    simp [ready, holds_init]

theorem mapSound_init : MapSound (State.init c) := fun a => by
  have noneRenamed : (State.init c).recs.filter (Record.mapsTo a) = [] := by
    refine List.filter_eq_nil_iff.2 fun r hr hm => ?_
    obtain ⟨i, -, rfl⟩ := List.mem_map.1 hr
    rw [Record.mapsTo_eq] at hm
    cases hm
  rw [mappingAfter, noneRenamed]
  exact identityMap_getElem a

/-- Settles O37: layer by layer. -/
theorem resetSatisfiesTheInvariant : Obligations.ResetSatisfiesTheInvariant := fun c hc =>
  { shaped := shaped_init hc
    ordered := ordered_init
    timed := timed_init
    registers := registersSound_init
    mapped := mapSound_init
    sources := fun j _ r hr hR => by
      obtain ⟨i, -, rfl⟩ := getElem?_recs_init hr
      cases hR
    dependences := fun j _ r _ _ pos _ a _ q _ => by
      refine ⟨fun v hv => ?_, fun hflag => ?_⟩
      · rw [stampOf_init] at hv
        cases hv
      · cases hflag }

end

theorem Inv.of_step {s t : State} (hs : Inv s) (h : step s = .next t) : Inv t where
  shaped := hs.shaped.of_step h
  ordered := stepKeepsTheOrder s t hs.shaped hs.ordered h
  timed := hs.timed.of_step hs.shaped hs.ordered h
  registers := stepKeepsTheRegisters s t hs.shaped hs.ordered hs.registers h
  mapped := stepKeepsTheMapping s t hs.shaped hs.ordered hs.registers hs.mapped h
  sources := stepKeepsTheSources s t hs.shaped hs.ordered hs.registers hs.mapped hs.sources h
  dependences := stepKeepsReadAfterWrite s t hs h

theorem Inv.step_answers {s : State} (hs : Inv s) : ∃ t, step s = .next t :=
  orderedStatesNeverStop s hs.shaped hs.ordered

theorem Inv.step_config {s t : State} (hs : Inv s) (h : step s = .next t) : t.config = s.config :=
  (configurationIsImmutable s t hs.shaped.fromTrace h).1

/-- Settles O46: each step answers, and keeps every layer. -/
theorem invariantHoldsForEver : Obligations.InvariantHoldsForEver := by
  intro s k hs
  induction k generalizing s with
  | zero => exact ⟨s, rfl, hs, rfl⟩
  | succ k ih =>
    obtain ⟨u, hu⟩ := hs.step_answers
    obtain ⟨t, ht, hinv, hc⟩ := ih u (hs.of_step hu)
    exact ⟨t, (run_succ_of_step_eq_next hu k).trans ht, hinv, hc.trans (hs.step_config hu)⟩

/-! ### The stamps of a committed instruction -/

section
variable {s : State} (hs : Inv s)
include hs

/-- A committed instruction has all seven stamps, in increasing order and in the past. -/
theorem Inv.stamps_of_committed {j : Nat} (hC : s.passed .C j) : ∃ f dc r di is w c,
    s.stampOf .F j = some f ∧ s.stampOf .Dc j = some dc ∧ s.stampOf .R j = some r ∧ s.stampOf .Di j = some di ∧
    s.stampOf .IS j = some is ∧ s.stampOf .W j = some w ∧ s.stampOf .C j = some c ∧
    f < dc ∧ dc < r ∧ r < di ∧ di < is ∧ is < w ∧ w < c ∧ c < s.currentCycle := by
  have hj := State.lt_count_of_passed hC
  have hW := hs.ordered.passed_before hj rfl hC
  have hIS := hs.ordered.passed_before hj rfl hW
  have hDi := hs.ordered.passed_before hj rfl hIS
  have hR := hs.ordered.passed_before hj rfl hDi
  have hDc := hs.ordered.passed_before hj rfl hR
  have hF := hs.ordered.passed_before hj rfl hDc
  obtain ⟨f, hf⟩ := Option.isSome_iff_exists.1 hF
  obtain ⟨dc, hdc⟩ := Option.isSome_iff_exists.1 hDc
  obtain ⟨r, hr⟩ := Option.isSome_iff_exists.1 hR
  obtain ⟨di, hdi⟩ := Option.isSome_iff_exists.1 hDi
  obtain ⟨is, his⟩ := Option.isSome_iff_exists.1 hIS
  obtain ⟨w, hw⟩ := Option.isSome_iff_exists.1 hW
  obtain ⟨c, hc⟩ := Option.isSome_iff_exists.1 hC
  obtain ⟨mDc, mR, mDi, mIS, mW, mC⟩ := hs.timed.monotone j hj
  have nextDi := mDi r hr di hdi
  have nextW := mW is his w hw
  exact ⟨f, dc, r, di, is, w, c, hf, hdc, hr, hdi, his, hw, hc, mDc f hf dc hdc, mR dc hdc r hr, by omega,
    mIS di hdi is his, by omega, mC w hw c hc, hs.timed.stamp_lt hc⟩

theorem Inv.completed_of_done (hd : s.done = true) : s.completedCount = s.count :=
  (beq_iff_eq.1 hd).trans hs.shaped.sized.count.symm

theorem Inv.committed_of_done (hd : s.done = true) {j : Nat} (hj : j < s.count) : s.passed .C j :=
  (hs.ordered.passed_C hj).2 (hs.completed_of_done hd ▸ hj)

theorem Inv.six_le_of_committed {j t : Nat} (ht : s.stampOf .C j = some t) : 6 ≤ t := by
  have hC : s.passed .C j := by rw [State.passed, ht]; rfl
  obtain ⟨f, dc, r, di, is, w, c, -, -, -, -, -, -, hc, h⟩ := hs.stamps_of_committed hC
  cases ht.symm.trans hc
  omega

theorem Inv.seven_le_of_done (hd : s.done = true) (hN : 1 ≤ s.count) : 7 ≤ s.currentCycle := by
  obtain ⟨t, ht, hlast⟩ := hs.timed.ended.2 hd (s.count - 1) (by omega) (by omega)
  have := hs.six_le_of_committed ht
  omega

end

/-- Settles O49: seven increasing stamps, the last of them of the last tick. -/
theorem nothingCommitsBeforeTickSix : Obligations.NothingCommitsBeforeTickSix := fun _ hs =>
  ⟨fun _ _ _ ht => hs.six_le_of_committed ht, hs.seven_le_of_done⟩

/-! ### The final state -/

section
variable {s : State} (hs : Inv s) (hd : s.done = true)
include hs hd

theorem Inv.passed_of_done {j : Nat} (hj : j < s.count) (st : Stage) : s.passed st j := by
  obtain ⟨f, dc, r, di, is, w, c, hf, hdc, hr, hdi, his, hw, hc, -⟩ :=
    hs.stamps_of_committed (hs.committed_of_done hd hj)
  rw [State.passed]
  cases st with
  | F => exact Option.isSome_of_eq_some hf
  | Dc => exact Option.isSome_of_eq_some hdc
  | R => exact Option.isSome_of_eq_some hr
  | Di => exact Option.isSome_of_eq_some hdi
  | IS => exact Option.isSome_of_eq_some his
  | W => exact Option.isSome_of_eq_some hw
  | C => exact Option.isSome_of_eq_some hc

theorem Inv.counters_of_done : s.fetchOffset = s.count ∧ s.iqAgeCounter = s.count ∧ s.completedCount = s.count := by
  have := hs.completed_of_done hd
  have := hs.ordered.counters
  omega

theorem Inv.queues_of_done : s.iq = [] ∧ s.rob = [] ∧ s.wbq = [] := by
  obtain ⟨-, hage, hcompleted⟩ := hs.counters_of_done hd
  refine ⟨?_, ?_, ?_⟩
  · refine List.eq_nil_iff_forall_not_mem.2 fun e he => ?_
    have hj := hs.ordered.handles.1 e he
    exact ((hs.ordered.mem_iq hj).1 (List.mem_map_of_mem he)).2 (hs.passed_of_done hd hj .IS)
  · have refs := hs.ordered.rob.1
    rw [hage, hcompleted, Nat.sub_self] at refs
    exact List.map_eq_nil_iff.1 refs
  · refine List.eq_nil_iff_forall_not_mem.2 fun h hh => ?_
    have hj := hs.ordered.handles.2 h hh
    exact ((hs.ordered.mem_wbq hj).1 hh).2 (hs.passed_of_done hd hj .W)

theorem Inv.latches_of_done : ∀ l ∈ [s.latchF, s.latchDc, s.latchR, s.latchDi], latchEmpty l = true := by
  obtain ⟨hoff, hage, -⟩ := hs.counters_of_done hd
  have all := hs.ordered.latches.1
  rw [hoff, hage, Nat.sub_self, List.range'_zero, List.append_eq_nil_iff, List.append_eq_nil_iff] at all
  obtain ⟨⟨hR, hDc⟩, hF⟩ := all
  have hDi : occupied s.latchDi = [] := List.eq_nil_iff_forall_not_mem.2 fun j hj => by
    obtain ⟨-, inTable, stamped⟩ := hs.timed.dispatched
    obtain ⟨t, ht, hnow⟩ := (stamped j (inTable j hj)).1 hj
    obtain ⟨f, dc, r, di, is, w, c, -, -, -, hdi, -, -, -, h⟩ :=
      hs.stamps_of_committed (hs.committed_of_done hd (inTable j hj))
    cases hdi.symm.trans ht
    omega
  intro l hl
  refine latchEmpty_of_occupied_eq_nil ?_
  simp only [List.mem_cons, List.not_mem_nil, or_false] at hl
  obtain rfl | rfl | rfl | rfl := hl <;> assumption

theorem Inv.not_held_of_done {j : Nat} (hj : j < s.count) (p : Nat) : s.holds j p = false :=
  Bool.eq_false_iff.2 fun h => (State.holds_iff.1 h).2.2.1 (hs.committed_of_done hd hj)

theorem Inv.free_of_done : s.free.Perm (List.range' 32 (s.config.physRegCount - 32)) := by
  refine (List.perm_ext_iff_of_nodup hs.registers.freeList.1 (List.nodup_range' ..)).2 fun p => ?_
  rw [List.mem_range'_1]
  refine ⟨fun hp => ?_, fun hp => ?_⟩
  · obtain ⟨harch, hlt⟩ : 32 ≤ p ∧ p < s.config.physRegCount := hs.registers.freeList.2 p hp
    omega
  · obtain hfree | ⟨j, hj, hheld⟩ := hs.registers.covered p (by omega) hp.1
    · exact hfree
    · rw [hs.not_held_of_done hd hj] at hheld
      cases hheld

theorem Inv.ready_of_done {p : Nat} (hp : p < s.config.physRegCount) : readyBit s.rdy p = true := by
  refine Bool.eq_true_of_not_eq_false fun hfalse => ?_
  obtain ⟨j, hj, hheld, -⟩ := (hs.registers.ready p hp).1 hfalse
  rw [hs.not_held_of_done hd hj] at hheld
  cases hheld

end

/-- Settles O51: with every instruction committed each layer says that nothing is left. -/
theorem doneStateIsClean : Obligations.DoneStateIsClean := by
  intro s hs hd
  obtain ⟨hiq, hrob, hwbq⟩ := hs.queues_of_done hd
  obtain ⟨hoff, hage, hcompleted⟩ := hs.counters_of_done hd
  have hN := hs.shaped.sized.count
  refine ⟨fun j hj st => hs.passed_of_done hd hj st, hiq, hrob, hwbq, hs.latches_of_done hd,
    fun p hp => hs.ready_of_done hd hp, hs.free_of_done hd, hoff.trans hN, hage.trans hN, hcompleted.trans hN,
    fun j hj => ?_, fun hnil => hs.timed.ended.1 (by rw [hN, hnil]; rfl), hs.mapped⟩
  obtain ⟨t, ht, hlast⟩ := hs.timed.ended.2 hd j (by omega) (by omega)
  exact ⟨t, ht, hlast.symm⟩

/-! ### The report -/

/-- With an answer for each element, `mapM` answers the list of them. -/
theorem mapM_of_forall_isSome {α β : Type} {f : α → Option β} {l : List α} (h : ∀ x ∈ l, (f x).isSome = true) :
    ∃ ys, l.mapM f = some ys ∧ l.map f = ys.map some := by
  induction l with
  | nil => exact ⟨[], rfl, rfl⟩
  | cons x l ih =>
    obtain ⟨y, hy⟩ := Option.isSome_iff_exists.1 (h x List.mem_cons_self)
    obtain ⟨ys, hys, hmap⟩ := ih fun z hz => h z (List.mem_cons_of_mem x hz)
    refine ⟨y :: ys, ?_, ?_⟩
    · rw [List.mapM_cons, hy, hys]
      rfl
    · rw [List.map_cons, List.map_cons, hy, hmap]

/-- The row of a committed instruction. -/
theorem Inv.row_of_committed {s : State} (hs : Inv s) {j : Nat} {r : Record} (hr : s.recs[j]? = some r)
    (hC : s.passed .C j) : ∃ row, r.row = some row ∧ row.1 = j ∧ row.2.Pairwise (· < ·) ∧
      row.2.map some = [s.stampOf .F j, s.stampOf .Dc j, s.stampOf .R j, s.stampOf .Di j, s.stampOf .IS j,
        s.stampOf .W j, s.stampOf .C j] := by
  obtain ⟨f, dc, rn, di, is, w, c, hf, hdc, hrn, hdi, his, hw, hc, h⟩ := hs.stamps_of_committed hC
  have hj := State.lt_count_of_passed hC
  have fetched : j < s.fetchOffset := by
    have := (hs.ordered.passed_C hj).1 hC
    have := hs.ordered.counters
    omega
  have index := hs.ordered.fetchIndex hj
  rw [hr, Option.bind_some, if_pos fetched] at index
  refine ⟨(j, [f, dc, rn, di, is, w, c]), ?_, rfl, ?_, ?_⟩
  · simp only [State.stampOf_of_getElem? hr, Stamps.get] at hf hdc hrn hdi his hw hc
    simp only [Record.row, index, hf, hdc, hrn, hdi, his, hw, hc]
  · simp
    omega
  · rw [hf, hdc, hrn, hdi, his, hw, hc]
    rfl

/-- Settles O54: every record has its row once the engine is done. -/
theorem reportHasEveryRow : Obligations.ReportHasEveryRow := by
  intro s hs
  refine ⟨fun hd => by rw [State.report, hd]; rfl, fun hd => ?_⟩
  obtain ⟨rows, hrows, hmap⟩ := mapM_of_forall_isSome (f := Record.row) (l := s.recs) fun r hr => by
    obtain ⟨j, hj⟩ := List.mem_iff_getElem?.1 hr
    obtain ⟨x, hx, -⟩ := hs.row_of_committed hj (hs.committed_of_done hd (List.getElem?_eq_some_iff.1 hj).1)
    rw [hx]
    rfl
  have each : ∀ j x, rows[j]? = some x → x.1 = j ∧ x.2.Pairwise (· < ·) ∧
      x.2.map some = [s.stampOf .F j, s.stampOf .Dc j, s.stampOf .R j, s.stampOf .Di j, s.stampOf .IS j,
        s.stampOf .W j, s.stampOf .C j] := fun j x hx => by
    have at_j := congrArg (·[j]?) hmap
    simp only [List.getElem?_map, hx, Option.map_some] at at_j
    obtain ⟨r, hr, hrow⟩ := Option.map_eq_some_iff.1 at_j
    obtain ⟨x', hx', h⟩ := hs.row_of_committed hr (hs.committed_of_done hd (List.getElem?_eq_some_iff.1 hr).1)
    cases hx'.symm.trans hrow
    exact h
  have length : rows.length = s.count := by simpa using (congrArg List.length hmap).symm
  refine ⟨rows, by rw [State.report, if_pos hd, hrows], ?_, fun x hx => ?_⟩
  · refine List.ext_getElem (by simpa using length) fun j hj _ => ?_
    rw [List.length_map] at hj
    rw [List.getElem_map, List.getElem_range]
    exact (each j _ (List.getElem?_eq_getElem hj)).1
  · obtain ⟨j, hj⟩ := List.mem_iff_getElem?.1 hx
    obtain ⟨rfl, increasing, stamps⟩ := each j x hj
    exact ⟨increasing, stamps⟩

end Sys2Proof.Machine

/-! # What a flag waits for

The ready flag of a source that waits is false only while the ready bit of its register is false: the tags and the ready
bits are raised in the same tick. -/

namespace Sys2Proof.Machine

open Sys2Proof

/-- A false flag is that of a register source whose ready bit is false. -/
def FlagsAwait (s : State) : Prop :=
  ∀ e ∈ s.iq, ∀ r ∈ s.recs[e.instrRef]?, ∀ pos, e.flag pos = false →
    ∃ p, r.source pos = some (.reg p) ∧ readyBit s.rdy p = false

theorem flagsAwait_init (c : Config) : FlagsAwait (State.init c) := nofun

theorem readyBit_of_length_le {rdy : List Bool} {p : Nat} (hp : rdy.length ≤ p) : readyBit rdy p = false := by
  rw [readyBit, List.getD_eq_getElem?_getD, List.getElem?_eq_none hp, Option.getD_none]

/-- The flag of a filled source at Dispatch is false only for a register whose ready bit is false. -/
theorem readyBit_of_dispatchFlag {s : State} {waits : Bool} {x : Option Src} (hx : x.isSome = true)
    (h : s.dispatchFlag waits x = false) : ∃ p, x = some (.reg p) ∧ readyBit s.rdy p = false := by
  rw [State.dispatchFlag] at h
  split at h
  · match x with
    | some (.reg p) => exact ⟨p, rfl, h⟩
    | some (.imm v) => cases h
  · cases h

/-- Rename raises no ready bit. -/
theorem renameStage_readyBit {s t : State} (h : renameStage s = .next t) {p : Nat} (hp : readyBit s.rdy p = false) :
    readyBit t.rdy p = false := by
  refine renameStage_keeps (P := fun u => readyBit u.rdy p = false) (fun k x u v hu hv => ?_)
    (fun u hu => by rwa [u.takeGroup_rdy]) hp h
  obtain rfl | ⟨r, q, done⟩ := runAt_R_completes hv
  · exact hu
  · obtain ⟨d, rest, -, -, -, hrdy, -⟩ | ⟨-, -, hrdy, -⟩ := done.tables
    · rw [hrdy]
      by_cases hq : q < u.rdy.length
      · rw [readyBit_set_false hq, hu, ite_self]
      · rwa [List.set_eq_of_length_le (Nat.le_of_not_lt hq)]
    · rwa [hrdy]

section
variable {s s₁ s₂ s₃ s₄ s₅ s₆ s₇ : State} (h : OrderedTick s s₁ s₂ s₃ s₄ s₅ s₆ s₇) (hinv : Inv s)
include h hinv

/-- A ready bit that is false stays so up to Writeback while its register is not on the bus. -/
theorem OrderedTick.readyBit₄ {p : Nat} (hp : readyBit s.rdy p = false) (htag : p ∉ s₃.wbTags ++ s₃.isTags) :
    readyBit s₄.rdy p = false := by
  have registers := h.registers hinv.ordered hinv.shaped.sized hinv.registers
  obtain ⟨aC, aW, -⟩ := h.advances hinv.ordered
  have config₁ : s₁.config = s.config := (congrArg State.config (commitStage_frame h.commit) :)
  have drained := writebackStage_drained h.ordered₁.queues.2.2.2 h.writeback
  obtain ⟨wbTags, -⟩ := wakeupRaisesMatchingFlags s₂ s₃ h.issue
  have noWbTags : s₁.wbTags = [] := (congrArg State.wbTags (commitStage_frame h.commit) :)
  rw [h.rdy₄]
  by_cases hlt : p < s.config.physRegCount
  · obtain ⟨j, hj, hheld, hW⟩ := (hinv.registers.ready p hlt).1 hp
    obtain ⟨hprod, hR, -, hdst⟩ := State.holds_iff.1 hheld
    have names₁ : SameNames s s₁ := (commitWalk_retired h.commit).stamped.sameNames
    have unwritten : ¬ s₁.passed .W j := by rwa [aC.passed_of_ne (by decide)]
    have held : s₁.holds j p = true := State.holds_iff.2 ⟨by rw [names₁.producesAt, hprod], aC.passed hR,
      fun hC => unwritten (h.ordered₁.passed_before (State.lt_count_of_passed hC) rfl hC),
      by rw [names₁.physDstOf, hdst]⟩
    have notReady := (registers.sound₁.ready p (config₁ ▸ hlt)).2 ⟨j, aC.count ▸ hj, held, unwritten⟩
    rw [drained.rdy, readyBit_setReady_eq_false (by rwa [h.sized₁.rdyLength, config₁])]
    refine ⟨notReady, fun hmem => htag (List.mem_append_left _ ?_)⟩
    rwa [wbTags, drained.wbTags, noWbTags, List.nil_append]
  · refine readyBit_of_length_le ?_
    have config₂ : s₂.config = s₁.config := (congrArg State.config (writebackStage_frame h.writeback) :)
    rw [h.sized₂.rdyLength, config₂, config₁]
    exact Nat.le_of_not_lt hlt

theorem OrderedTick.flagsAwait (hs : FlagsAwait s) : FlagsAwait s₇.finish := by
  have registers := h.registers hinv.ordered hinv.shaped.sized hinv.registers
  obtain ⟨same, -⟩ := h.sameMapping hinv.ordered registers.sound₆
  obtain ⟨-, after⟩ := h.sameNames registers.sound₆
  have rdy₇ : s₇.rdy = s₅.rdy :=
    ((congrArg State.rdy (fetchStage_frame h.fetch) :) : s₇.rdy = s₆.rdy).trans
      (congrArg State.rdy (decodeStage_frame h.decode) :)
  intro x hx r₇ hr₇ pos hflag
  rw [show s₇.finish.iq = s₄.iq from h.iq₇] at hx
  have inTable := h.ordered₄.handles.1 x hx
  have renamed : s₄.passed .R x.instrRef :=
    h.ordered₄.passed_before inTable rfl ((h.ordered₄.mem_iq inTable).1 (List.mem_map_of_mem hx)).1
  obtain ⟨r₅, hr₅, names₅⟩ := after.getElem? hr₇
  rw [h.ordered₄.renameStage_keeps_renamed h.rename renamed] at hr₅
  obtain ⟨r₀, hr₀, names₀⟩ := same.names.getElem? hr₅
  rw [← Record.source_eq_of_names names₅]
  suffices hbit : ∃ p, r₅.source pos = some (.reg p) ∧ readyBit s₄.rdy p = false by
    obtain ⟨p, hsource, hp⟩ := hbit
    refine ⟨p, hsource, ?_⟩
    rw [show s₇.finish.rdy = s₅.rdy from rdy₇]
    exact renameStage_readyBit h.rename hp
  obtain ⟨e, he, href, hiff⟩ | hnew := h.entry_cases hx hr₅ pos
  · rw [← Bool.not_eq_true, hiff, not_or, Bool.not_eq_true] at hflag
    obtain ⟨p, hsource, hp⟩ := hs e he r₀ (href ▸ hr₀) pos hflag.1
    rw [Record.source_eq_of_names names₀] at hsource
    exact ⟨p, hsource, h.readyBit₄ hinv hp fun htag => hflag.2 ⟨p, htag, hsource⟩⟩
  · rw [hnew] at hflag
    obtain ⟨-, src1, src2, -⟩ := (fieldsFilled_iff hr₅).1 (registers.sound₄.filled _ inTable)
    refine readyBit_of_dispatchFlag ?_ hflag
    cases pos with
    | true => exact src1.2 renamed
    | false => exact src2.2 renamed

end

theorem FlagsAwait.of_step {s t : State} (hs : FlagsAwait s) (hinv : Inv s) (hstep : step s = .next t) :
    FlagsAwait t := by
  obtain ⟨-, ⟨-, rfl⟩ | ⟨-, hstep⟩⟩ := advance_eq_next hstep
  · exact hs
  · obtain ⟨s₁, s₂, s₃, s₄, s₅, s₆, s₇, h, rfl⟩ := hinv.ordered.tick_stages hinv.shaped.sized hstep
    exact h.flagsAwait hinv hs

/-- A waiting source is the register of an instruction in flight that has not written back. -/
theorem FlagsAwait.holder {s : State} (hs : FlagsAwait s) (hinv : Inv s) {e : IQEntry} (he : e ∈ s.iq) {r : Record}
    (hr : s.recs[e.instrRef]? = some r) {pos : Bool} (hflag : e.flag pos = false) :
    ∃ p, s.sourceOf e.instrRef r.instr pos = some (.reg p) ∧
      (p < s.config.physRegCount → ∃ j, s.holds j p = true ∧ ¬ s.passed .W j) := by
  obtain ⟨p, hsource, hp⟩ := hs e he r hr pos hflag
  have inTable := hinv.ordered.handles.1 e he
  have renamed : s.passed .R e.instrRef :=
    hinv.ordered.passed_before inTable rfl ((hinv.ordered.mem_iq inTable).1 (List.mem_map_of_mem he)).1
  rw [State.passed, State.stampOf_of_getElem? hr] at renamed
  have source := sourceRenamed_iff.1 (hinv.sources _ inTable r hr renamed pos (by cases pos <;> decide))
  refine ⟨p, source.symm.trans hsource, fun hlt => ?_⟩
  obtain ⟨j, -, hheld, hW⟩ := (hinv.registers.ready p hlt).1 hp
  exact ⟨j, hheld, hW⟩

end Sys2Proof.Machine

/-! # Progress of the oldest instruction (48_invariants.md R233)

In every tick that is not the last the oldest uncommitted instruction passes a stage, or another issues, unless it sits in
the issue queue with a flag that is false. -/

namespace Sys2Proof.Machine

open Sys2Proof

/-- The entry of the oldest uncommitted instruction, wherever it is in the issue queue, may be selected. -/
def OldestEligible (s : State) : Prop := ∀ e ∈ s.iq, e.instrRef = s.completedCount → e.eligible = true

/-- `t` has a stamp that `s` has not. -/
def Progress (s t : State) : Prop := ∃ st j, ¬ s.passed st j ∧ t.passed st j

theorem Sized.issueWidth_pos {s : State} (hs : Sized s) : 1 ≤ s.config.issueWidth := by
  have legal := hs.legal
  rw [Config.legal, Bool.and_eq_true] at legal
  exact (Config.widthsLegal_iff.1 legal.1).1

theorem Sized.physRegCount_gt {s : State} (hs : Sized s) : 32 < s.config.physRegCount := by
  have legal := hs.legal
  rw [Config.legal, Bool.and_eq_true] at legal
  exact (Config.widthsLegal_iff.1 legal.1).2

/-! ### The back end -/

section
variable {s t : State}

/-- Commit takes the head of the reorder buffer when it has written back. -/
theorem Ordered.commits_oldest (hs : Ordered s) (hsize : Sized s) (hW : s.passed .W s.completedCount)
    (h : Machine.commitStage s = .next t) : t.passed .C s.completedCount := by
  have inTable := State.lt_count_of_passed hW
  have dispatched := hs.dispatched_of_issued inTable (hs.issued_of_written inTable hW)
  obtain ⟨e, rest, hrob⟩ : ∃ e rest, s.rob = e :: rest := List.exists_cons_of_ne_nil fun hnil => by
    have := congrArg List.length hs.rob.1
    rw [hnil, List.map_nil, List.length_nil, List.length_range'] at this
    omega
  have refs := hs.rob.1
  rw [hrob, List.map_cons, show s.iqAgeCounter - s.completedCount = (s.iqAgeCounter - s.completedCount - 1) + 1 by omega,
    List.range'_succ, List.cons.injEq] at refs
  have ready : e.ready = true := (hs.rob.2 e (hrob ▸ List.mem_cons_self)).2.2 (refs.1.symm ▸ hW)
  obtain ⟨w, hw⟩ := Nat.exists_eq_succ_of_ne_zero (Nat.pos_iff_ne_zero.1 hsize.issueWidth_pos)
  have retired := (commitWalk_retired h).stamped
  rw [hrob, List.takeWhile_cons_of_pos ready, List.length_cons, hw, Nat.succ_min_succ, List.take_succ_cons,
    List.map_cons, refs.1] at retired
  exact (retired.passedMore.self inTable).2 (.inr List.mem_cons_self)

/-- With an eligible entry in the queue Issue issues an instruction. -/
theorem Ordered.issues_some (hs : Ordered s) (hsize : Sized s) {e : IQEntry} (he : e ∈ s.iq)
    (heligible : e.eligible = true) (h : Machine.issueStage s = .next t) :
    ∃ j, ¬ s.passed .IS j ∧ t.passed .IS j := by
  have candidate : e ∈ s.candidates := State.mem_candidates.2 ⟨he, heligible⟩
  obtain ⟨x, hx⟩ : ∃ x, x ∈ s.selected := by
    refine List.exists_mem_of_ne_nil _ fun hnil => ?_
    rw [s.selected_eq_take, List.take_eq_nil_iff] at hnil
    obtain hw | hnone := hnil
    · exact absurd hw (Nat.pos_iff_ne_zero.1 hsize.issueWidth_pos)
    · rw [hnone] at candidate
      cases candidate
  have hmem := List.mem_map_of_mem (f := IQEntry.instrRef) hx
  obtain ⟨hDi, hIS⟩ := hs.selected_waits hmem
  exact ⟨_, hIS, ((issueStage_iq h).1.passedMore.self (State.lt_count_of_passed hDi)).2 (.inr hmem)⟩

/-! ### The front end -/

/-- An instruction that is not dispatched, with all older ones committed, is the next to dispatch. -/
theorem Ordered.iqAgeCounter_of_oldest (hs : Ordered s) {c : Nat} (hc : c < s.count) (hle : c ≤ s.completedCount)
    (hDi : ¬ s.passed .Di c) : s.iqAgeCounter = c := by
  have := hs.counters.1
  have := mt (hs.passed_Di hc).2 hDi
  omega

/-- Fetch takes the next instruction when nothing is in flight. -/
theorem Ordered.fetches_oldest (hs : Ordered s) (hsize : Sized s) {c : Nat} (hc : c < s.count)
    (hage : s.iqAgeCounter = c) (hF : ¬ s.passed .F c) (h : Machine.fetchStage s = .next t) : t.passed .F c := by
  have hoff := mt (hs.passed_F hc).2 hF
  have sum := hs.latch_ranges.2.2.2
  have empty : latchEmpty s.latchF = true := latchEmpty_of_occupied_eq_nil (List.length_eq_zero_iff.1 (by omega))
  have filled := fetchStage_groupFetched empty hsize.count h
  have room : c < s.config.trace.length := hsize.count ▸ hc
  have width := hsize.issueWidth_pos
  obtain ⟨i, -, hr⟩ := filled.fetched c (by omega) (by omega)
  rw [State.passed, stampOf_of_fetchedAs hr]
  rfl

/-- Decode takes the oldest instruction when it is in `F`. -/
theorem Ordered.decodes_oldest (hs : Ordered s) (hsize : Sized s) {c : Nat} (hc : c < s.count)
    (hage : s.iqAgeCounter = c) (hF : s.passed .F c) (hDc : ¬ s.passed .Dc c) (h : Machine.decodeStage s = .next t) :
    t.passed .Dc c := by
  have fetched := (hs.passed_F hc).1 hF
  have inF : c ∈ occupied s.latchF := by
    by_contra hout
    exact hDc ((hs.passed_Dc hc).2 ⟨fetched, hout⟩)
  have bound := (hs.mem_latchF.1 inF).1
  have empty : latchEmpty s.latchDc = true := latchEmpty_of_occupied_eq_nil (List.length_eq_zero_iff.1 (by omega))
  exact ((decodeStage_moved hsize empty h).1.passedMore.self hc).2 (.inr inF)

/-- What Rename comes to after Dispatch: nothing in `R` or `Dc` is renamed. -/
def PendingFrontEnd (s : State) : Prop := ∀ j ∈ occupied s.latchR ++ occupied s.latchDc, s.renamed j = false

theorem Ordered.pending_after_dispatch (hs : Ordered s) (hsize : Sized s) (ht : Ordered t)
    (h : Machine.dispatchStage s = .next t) : PendingFrontEnd t := fun j hj => by
  obtain hR | hDc := List.mem_append.1 hj
  · have taken := dispatchStage_slotsDispatched h
    obtain ⟨-, -, -, pending⟩ := hs.latchR_dispatch hsize taken
    rw [taken.stamped.renamed (by decide)]
    exact pending j hR
  · rw [State.renamed_eq_isSome]
    refine Bool.eq_false_iff.2 fun hp => ?_
    have inDc := ht.mem_latchDc.1 hDc
    obtain hold | hR := ht.of_passed_R (State.lt_count_of_passed hp) hp
    · omega
    · have := ht.mem_latchR.1 hR
      omega

/-- Where the oldest instruction is not renamed no register is held. -/
theorem RegistersSound.free_ne_nil (hreg : RegistersSound s) (hs : Ordered s) (hsize : Sized s) {c : Nat}
    (hle : c ≤ s.completedCount) (hR : ¬ s.passed .R c) : s.free ≠ [] := by
  have pool := hsize.physRegCount_gt
  obtain hmem | ⟨j, hj, hheld⟩ := hreg.covered 32 pool le_rfl
  · exact List.ne_nil_of_mem hmem
  · obtain ⟨-, hRj, hC, -⟩ := State.holds_iff.1 hheld
    exfalso
    obtain hlt | rfl | hlt := Nat.lt_trichotomy j c
    · exact hC ((hs.passed_C hj).2 (hlt.trans_le hle))
    · exact hR hRj
    · exact hR (hs.renames j hj hRj c hlt)

/-- Rename renames the oldest instruction, which is leftmost in `R`. -/
theorem Ordered.renames_oldest (hs : Ordered s) (hsize : Sized s) (hpending : PendingFrontEnd s)
    (h : Machine.renameStage s = .next t) (ht : Ordered t) (hsize' : Sized t) (hreg : RegistersSound t) {c : Nat}
    (hc : c < t.count) (hle : c ≤ t.completedCount) (hDc : t.passed .Dc c) : t.passed .R c := by
  by_contra hR
  have hage := ht.iqAgeCounter_of_oldest hc hle fun hDi => hR (ht.passed_before hc rfl hDi)
  obtain ⟨fetched, notInF⟩ := (ht.passed_Dc hc).1 hDc
  have grouped := hs.takeGroup
  have pending : ∀ x ∈ occupied s.takeGroup.latchR, s.renamed x = false := fun x hx => by
    rw [takeGroup_latchR] at hx
    split at hx
    · exact hpending x (List.mem_append_right _ hx)
    · exact hpending x (List.mem_append_left _ hx)
  have distinct : (occupied s.takeGroup.latchR).Nodup := by
    rw [grouped.latch_ranges.1]
    exact List.nodup_range' ..
  obtain ⟨emptied, kept, -, stalled⟩ :=
    renameFencesAtTheFirstStall s t distinct (hsize.takeGroup.latchRLength.trans (by rw [s.takeGroup_config])) pending h
  have inR : c ∈ occupied t.latchR := by
    have sum := ht.latch_ranges.2.2.2
    rw [ht.mem_latchF] at notInF
    rw [ht.mem_latchR]
    suffices hlen : (occupied t.latchR).length ≠ 0 by omega
    intro hzero
    have none_inR := List.length_eq_zero_iff.1 hzero
    cases hfull : latchEmpty s.latchR with
    | true =>
      have := occupied_eq_nil_of_latchEmpty (emptied hfull).2
      rw [this, none_inR] at notInF sum
      simp only [List.length_nil] at notInF sum
      omega
    | false =>
      rw [(kept hfull).1] at none_inR
      exact latchEmpty_eq_false_iff.1 hfull none_inR
  obtain ⟨k, hk⟩ := mem_occupied.1 inR
  have unrenamed : t.renamed c = false := by
    rw [State.renamed_eq_isSome]
    exact Bool.eq_false_iff.2 hR
  have sorted : (occupied t.latchR).Pairwise (· < ·) := by
    rw [ht.latch_ranges.1]
    exact List.pairwise_lt_range' ..
  obtain ⟨noneFree, -⟩ := stalled k c hk unrenamed fun i x hi hx => by
    have below := slotAt_pairwise sorted hi hx hk
    have := ht.mem_latchR.1 (mem_occupied.2 ⟨i, hx⟩)
    omega
  exact hreg.free_ne_nil ht hsize' hle hR noneFree

end

/-! ### The tick -/

section
variable {s s₁ s₂ s₃ s₄ s₅ s₆ s₇ : State} (h : OrderedTick s s₁ s₂ s₃ s₄ s₅ s₆ s₇) (hinv : Inv s)
include h

/-- Through the tick no fewer instructions are committed. -/
theorem OrderedTick.completed_le :
    s.completedCount ≤ s₅.completedCount ∧ s.completedCount ≤ s₆.completedCount := by
  have retired := (commitWalk_retired h.commit).completed
  have c₂ : s₂.completedCount = s₁.completedCount := (congrArg State.completedCount (writebackStage_frame h.writeback) :)
  have c₃ : s₃.completedCount = s₂.completedCount := (congrArg State.completedCount (issueStage_frame h.issue) :)
  have c₄ : s₄.completedCount = s₃.completedCount := (congrArg State.completedCount (dispatchStage_frame h.dispatch) :)
  have c₅ : s₅.completedCount = s₄.completedCount := (congrArg State.completedCount (renameStage_frame h.rename) :)
  have c₆ : s₆.completedCount = s₅.completedCount := (congrArg State.completedCount (decodeStage_frame h.decode) :)
  have c₁ : s₁.completedCount = s.completedCount + _ := retired
  omega

include hinv

/-- The front end brings the oldest instruction one stage on. -/
theorem OrderedTick.front_progress (hc : s.completedCount < s.count) (hR : ¬ s.passed .R s.completedCount) :
    Progress s s₇ := by
  have registers := h.registers hinv.ordered hinv.shaped.sized hinv.registers
  obtain ⟨aC, aW, aIS, aDi, aR, aDc, aF⟩ := h.advances hinv.ordered
  obtain ⟨le₅, le₆⟩ := h.completed_le
  have count₅ : s₅.count = s.count := aR.count.trans (aDi.count.trans (aIS.count.trans (aW.count.trans aC.count)))
  have count₆ : s₆.count = s.count := aDc.count.trans count₅
  generalize s.completedCount = c at *
  by_cases hR₅ : s₅.passed .R c
  · exact ⟨.R, c, hR, aF.passed (aDc.passed hR₅)⟩
  have hDi₅ : ¬ s₅.passed .Di c := fun hDi => hR₅ (h.ordered₅.passed_before (count₅ ▸ hc) rfl hDi)
  have age₅ := h.ordered₅.iqAgeCounter_of_oldest (count₅ ▸ hc) le₅ hDi₅
  have hDc₅ : ¬ s₅.passed .Dc c := fun hDc => hR₅ <|
    h.ordered₄.renames_oldest h.sized₄ (h.ordered₃.pending_after_dispatch h.sized₃ h.ordered₄ h.dispatch) h.rename
      h.ordered₅ h.sized₅ registers.sound₅ (count₅ ▸ hc) le₅ hDc
  have hDc : ¬ s.passed .Dc c := fun hp =>
    hDc₅ (aR.passed (aDi.passed (aIS.passed (aW.passed (aC.passed hp)))))
  by_cases hF₅ : s₅.passed .F c
  · exact ⟨.Dc, c, hDc, aF.passed (h.ordered₅.decodes_oldest h.sized₅ (count₅ ▸ hc) age₅ hF₅ hDc₅ h.decode)⟩
  have hF : ¬ s.passed .F c := fun hp =>
    hF₅ (aR.passed (aDi.passed (aIS.passed (aW.passed (aC.passed hp)))))
  have hF₆ : ¬ s₆.passed .F c := by rwa [aDc.passed_of_ne (by decide)]
  have hDi₆ : ¬ s₆.passed .Di c := by rwa [aDc.passed_of_ne (by decide)]
  have age₆ := h.ordered₆.iqAgeCounter_of_oldest (count₆ ▸ hc) le₆ hDi₆
  exact ⟨.F, c, hF, h.ordered₆.fetches_oldest h.sized₆ (count₆ ▸ hc) age₆ hF₆ h.fetch⟩

/-- The back end brings the oldest instruction one stage on, or issues another. -/
theorem OrderedTick.back_progress (holdest : OldestEligible s) (hc : s.completedCount < s.count)
    (hR : s.passed .R s.completedCount) : Progress s s₇.finish := by
  obtain ⟨aC, aW, aIS, aDi, aR, aDc, aF⟩ := h.advances hinv.ordered
  have stamps := h.stamps hinv.ordered
  have uncommitted : ¬ s.passed .C s.completedCount := fun hC =>
    absurd ((hinv.ordered.passed_C hc).1 hC) (Nat.lt_irrefl _)
  by_cases hW : s.passed .W s.completedCount
  · have committed : s₁.passed .C s.completedCount :=
      hinv.ordered.clearWires.commits_oldest hinv.shaped.sized.clearWires hW h.commit
    exact ⟨.C, _, uncommitted, aF.passed (aDc.passed (aR.passed (aDi.passed (aIS.passed (aW.passed committed)))))⟩
  by_cases hIS : s.passed .IS s.completedCount
  · exact ⟨.W, _, hW, stamps.written _ hIS⟩
  by_cases hDi : s.passed .Di s.completedCount
  · obtain ⟨e, he, href⟩ := List.mem_map.1 ((hinv.ordered.mem_iq hc).2 ⟨hDi, hIS⟩)
    obtain ⟨j, hn, hp⟩ := h.ordered₂.issues_some h.sized₂ (h.iq₂ ▸ he) (holdest e he href) h.issue
    rw [aW.passed_of_ne (by decide), aC.passed_of_ne (by decide)] at hn
    exact ⟨.IS, j, hn, aF.passed (aDc.passed (aR.passed (aDi.passed hp)))⟩
  · exact ⟨.Di, _, hDi, stamps.dispatched _ hR⟩

end

/-- A step that is not the last makes progress, where the oldest instruction's flags are true. -/
theorem Inv.progress {s t : State} (hinv : Inv s) (holdest : OldestEligible s) (hd : s.done = false)
    (hstep : step s = .next t) : Progress s t := by
  obtain ⟨-, ⟨hd', -⟩ | ⟨-, hstep⟩⟩ := advance_eq_next hstep
  · rw [hd] at hd'
    cases hd'
  · obtain ⟨s₁, s₂, s₃, s₄, s₅, s₆, s₇, h, rfl⟩ := hinv.ordered.tick_stages hinv.shaped.sized hstep
    have undone : s.completedCount ≠ s.count := fun hall => by
      rw [State.done, hall, hinv.shaped.sized.count, beq_self_eq_true] at hd
      cases hd
    have hc : s.completedCount < s.count := by
      have := hinv.ordered.counters
      omega
    by_cases hR : s.passed .R s.completedCount
    · exact h.back_progress hinv holdest hc hR
    · exact h.front_progress hinv hc hR

end Sys2Proof.Machine

/-! # Runs that end (48_invariants.md R233)

A run ends when the oldest instruction never waits for ever: each tick then sets a stamp, and there are seven for each
instruction. -/

namespace Sys2Proof.Machine

open Sys2Proof

/-! ### Counting the stamps that are left -/

/-- The stamps that are not set. -/
def State.unset (s : State) : Finset (Nat × Stage) :=
  (Finset.range s.count ×ˢ [Stage.F, .Dc, .R, .Di, .IS, .W, .C].toFinset).filter fun x => s.stampOf x.2 x.1 = none

theorem State.mem_unset {s : State} {j : Nat} {st : Stage} : (j, st) ∈ s.unset ↔ j < s.count ∧ ¬ s.passed st j := by
  have listed := st.mem_all
  rw [State.unset, Finset.mem_filter, Finset.mem_product, Finset.mem_range, List.mem_toFinset,
    Option.not_isSome_iff_eq_none]
  simp [listed]

theorem State.card_unset_le (s : State) : s.unset.card ≤ 7 * s.count := by
  refine (Finset.card_filter_le _ _).trans ?_
  rw [Finset.card_product, Finset.card_range, Nat.mul_comm]
  exact Nat.mul_le_mul_right _ (List.toFinset_card_le _)

theorem Inv.step_count {s t : State} (hs : Inv s) (h : step s = .next t) : t.count = s.count := by
  rw [(hs.of_step h).shaped.sized.count, hs.shaped.sized.count, hs.step_config h]

/-- Progress leaves fewer stamps unset. -/
theorem Inv.card_unset_lt {s t : State} (hs : Inv s) (h : step s = .next t) (hprogress : Progress s t) :
    t.unset.card < s.unset.card := by
  have count := hs.step_count h
  refine Finset.card_lt_card ((Finset.ssubset_iff_of_subset fun x hx => ?_).2 ?_)
  · obtain ⟨hj, hn⟩ := State.mem_unset.1 hx
    rw [count] at hj
    refine State.mem_unset.2 ⟨hj, fun hp => hn ?_⟩
    obtain ⟨v, hv⟩ := Option.isSome_iff_exists.1 hp
    rw [State.passed, (stampsAreWrittenOnce s t hs h x.1 hj).1 x.2 v hv]
    rfl
  · obtain ⟨st, j, hn, hp⟩ := hprogress
    exact ⟨(j, st), State.mem_unset.2 ⟨count ▸ State.lt_count_of_passed hp, hn⟩,
      fun hmem => (State.mem_unset.1 hmem).2 hp⟩

/-- A property that every step keeps, and under which the oldest instruction never waits, leads to the end. -/
theorem run_reaches_done {P : State → Prop} (kept : ∀ s t, P s → step s = .next t → P t) (inv : ∀ s, P s → Inv s)
    (oldest : ∀ s, P s → OldestEligible s) {n : Nat} {s : State} (hs : P s) (hn : s.unset.card ≤ n) :
    ∃ k ≤ n, ∃ t, Host.Core.run core k s = .next t ∧ P t ∧ t.done = true := by
  induction n generalizing s with
  | zero =>
    cases hd : s.done with
    | true => exact ⟨0, le_rfl, s, rfl, hs, hd⟩
    | false =>
      obtain ⟨t, ht⟩ := (inv s hs).step_answers
      have := (inv s hs).card_unset_lt ht ((inv s hs).progress (oldest s hs) hd ht)
      omega
  | succ n ih =>
    cases hd : s.done with
    | true => exact ⟨0, Nat.zero_le _, s, rfl, hs, hd⟩
    | false =>
      obtain ⟨t, ht⟩ := (inv s hs).step_answers
      have := (inv s hs).card_unset_lt ht ((inv s hs).progress (oldest s hs) hd ht)
      obtain ⟨k, hk, u, hu, hP, hdone⟩ := ih (kept s t hs ht) (by omega)
      exact ⟨k + 1, by omega, u, (run_succ_of_step_eq_next ht k).trans hu, hP, hdone⟩

theorem card_unset_init_le (c : Config) : (State.init c).unset.card ≤ 7 * c.trace.length :=
  count_init (c := c) ▸ State.card_unset_le _

/-! ### What an entry waits for -/

/-- A waiting source has a producer, whose register is held by an instruction that has not written back. -/
theorem FlagsAwait.producer {s : State} (hs : FlagsAwait s) (hinv : Inv s) {e : IQEntry} (he : e ∈ s.iq) {r : Record}
    (hr : s.recs[e.instrRef]? = some r) {pos : Bool} (hflag : e.flag pos = false) :
    ∃ a q p j, r.instr.sourceReg pos = some a ∧ s.producerBefore e.instrRef a = some q ∧ s.physDstOf q = some p ∧
      s.holds j p = true ∧ ¬ s.passed .W j := by
  obtain ⟨p, hsource, hheld⟩ := hs.holder hinv he hr hflag
  have inTrace : r.instr ∈ s.config.trace := hinv.shaped.fromTrace ▸ List.mem_map_of_mem (List.mem_of_getElem? hr)
  have wellFormed := hinv.shaped.sized.trace_wellFormed _ inTrace
  obtain ⟨a, hreg, -⟩ | ⟨hreg, -⟩ := rolesOf_operand wellFormed pos
  · cases hq : s.producerBefore e.instrRef a with
    | none =>
      rw [State.sourceOf_of_no_producer hreg hq] at hsource
      cases hsource
      have pool := hinv.shaped.sized.physRegCount_gt
      obtain ⟨j, hj, -⟩ := hheld (a.isLt.trans pool)
      obtain ⟨hprod, -, -, hdst⟩ := State.holds_iff.1 hj
      exact absurd (hinv.registers.range hprod hdst).1 (Nat.not_le.2 a.isLt)
    | some q =>
      rw [State.sourceOf_of_producer hreg hq] at hsource
      obtain ⟨p', hdst, hp⟩ := Option.map_eq_some_iff.1 hsource
      cases hp
      obtain ⟨j, hj, hW⟩ := hheld (hinv.registers.range (State.producesAt_of_producerBefore hq) hdst).2
      exact ⟨a, q, p, j, hreg, hq, hdst, hj, hW⟩
  · rw [State.sourceOf_of_imm hreg] at hsource
    cases hsource

/-- An entry none of whose sources waits may be selected. -/
theorem eligible_of_flags {e : IQEntry} (h : ∀ pos, e.flag pos ≠ false) : e.eligible = true :=
  IQEntry.eligible_iff.2 ⟨Bool.eq_true_of_not_eq_false (h true), Bool.eq_true_of_not_eq_false (h false)⟩

/-! ### Traces without dependences -/

/-- No register that a source names is ever written. -/
def Independent (trace : List Instr) : Prop :=
  ∀ i ∈ trace, ∀ pos, ∀ a ∈ i.sourceReg pos, ∀ j ∈ trace, j.produces = true → j.op1 ≠ (a : Int)

theorem FlagsAwait.oldestEligible_of_independent {s : State} (hs : FlagsAwait s) (hinv : Inv s)
    (h : Independent s.config.trace) : OldestEligible s := by
  intro e he _
  obtain ⟨r, hr⟩ : ∃ r, s.recs[e.instrRef]? = some r := ⟨_, List.getElem?_eq_getElem (hinv.ordered.handles.1 e he)⟩
  have inTrace : ∀ {j : Nat} {r : Record}, s.recs[j]? = some r → r.instr ∈ s.config.trace := fun hr =>
    hinv.shaped.fromTrace ▸ List.mem_map_of_mem (List.mem_of_getElem? hr)
  refine eligible_of_flags fun pos hflag => ?_
  obtain ⟨a, q, p, j, hreg, hq, -⟩ := hs.producer hinv he hr hflag
  obtain ⟨r', hr', hw⟩ := State.writes_of_producerBefore hq
  obtain ⟨hprod, hop1⟩ := Bool.and_eq_true_iff.1 hw
  exact h r.instr (inTrace hr) pos a hreg r'.instr (inTrace hr') hprod (beq_iff_eq.1 hop1)

/-- Settles O53: no entry ever waits. -/
theorem independentTracesTerminate : Obligations.IndependentTracesTerminate := by
  intro c hc hind
  obtain ⟨k, hk, t, ht, -, hd⟩ := run_reaches_done
    (P := fun s => (Inv s ∧ FlagsAwait s) ∧ Independent s.config.trace)
    (fun s t ⟨⟨hinv, hflags⟩, hi⟩ h => ⟨⟨hinv.of_step h, hflags.of_step hinv h⟩, hinv.step_config h ▸ hi⟩)
    (fun _ hs => hs.1.1) (fun _ hs => hs.1.2.oldestEligible_of_independent hs.1.1 hs.2)
    (s := State.init c) ⟨⟨resetSatisfiesTheInvariant c hc, flagsAwait_init c⟩, hind⟩ (card_unset_init_le c)
  exact ⟨k, hk, t, ht, hd⟩

end Sys2Proof.Machine

/-! # Traces with few producing instructions (70_reset_and_hazards.md section 2)

With at most `P - 32` producing instructions Rename never comes to a register that was given back: the producing
instructions take `32, 33, …` in program order. So a source waits for its producer, and not for a later owner of the
register; and a trace of one instruction goes through the seven stages in seven ticks. -/

namespace Sys2Proof.Machine

open Sys2Proof

/-! ### Counting producing instructions -/

/-- The number of producing instructions among the first `n` of a trace. -/
def producersBelow (l : List Instr) (n : Nat) : Nat := (l.take n).countP Instr.produces

section
variable {l : List Instr} {n : Nat}

theorem producersBelow_succ {i : Instr} (h : l[n]? = some i) :
    producersBelow l (n + 1) = producersBelow l n + if i.produces = true then 1 else 0 := by
  obtain ⟨hlt, rfl⟩ := List.getElem?_eq_some_iff.1 h
  rw [producersBelow, List.take_succ_eq_append_getElem hlt, List.countP_append, List.countP_singleton, producersBelow]

theorem producersBelow_le (l : List Instr) (n : Nat) : producersBelow l n ≤ l.countP Instr.produces :=
  (List.take_sublist n l).countP_le

theorem producersBelow_mono (l : List Instr) {m n : Nat} (h : m ≤ n) :
    producersBelow l m ≤ producersBelow l n := by
  rw [producersBelow, ← Nat.min_eq_left h, ← List.take_take]
  exact producersBelow_le (l.take n) m

/-- Each producing instruction has more below it than those before it. -/
theorem producersBelow_lt {i : Instr} {j k : Nat} (h : l[j]? = some i) (hp : i.produces = true) (hjk : j < k) :
    producersBelow l j < producersBelow l k := by
  have next := producersBelow_succ h
  rw [if_pos hp] at next
  have := producersBelow_mono l (show j + 1 ≤ k from hjk)
  omega

end

/-! ### The registers taken -/

/-- No more producing instructions than registers to take. -/
def FewProducers (c : Config) : Prop := c.trace.countP Instr.produces ≤ c.physRegCount - 32

/-- The free list begins with the registers that were never taken, and the producing instructions have taken those before
them in program order. -/
structure TakenInOrder (s : State) : Prop where
  free : ∃ n tail, n ≤ s.count ∧ RenamedBelow n s ∧
    s.free = List.range' (32 + producersBelow s.config.trace n)
      (s.config.physRegCount - 32 - producersBelow s.config.trace n) ++ tail
  taken : ∀ j, s.producesAt j = true → s.passed .R j → s.physDstOf j = some (32 + producersBelow s.config.trace j)

theorem takenInOrder_init (c : Config) : TakenInOrder (State.init c) where
  free := ⟨0, [], Nat.zero_le _, fun j _ => iff_of_false (not_passed_init .R j) (Nat.not_lt_zero j), by
    rw [List.append_nil]
    rfl⟩
  taken j _ hR := absurd hR (not_passed_init .R j)

section
variable {s t : State}

theorem RenamedBelow.unique {m n : Nat} (hm : RenamedBelow m s) (hn : RenamedBelow n s) (hmle : m ≤ s.count)
    (hnle : n ≤ s.count) : m = n := by
  by_contra hne
  obtain hlt | hlt := Nat.lt_or_gt_of_ne hne
  · exact Nat.lt_irrefl m ((hm m (hlt.trans_le hnle)).1 ((hn m (hlt.trans_le hnle)).2 hlt))
  · exact Nat.lt_irrefl n ((hn n (hlt.trans_le hmle)).1 ((hm n (hlt.trans_le hmle)).2 hlt))

/-- A stage that renames nothing and at most adds to the tail of the free list. -/
theorem TakenInOrder.of_same (hs : TakenInOrder s) (hc : t.config = s.config) (hcount : t.count = s.count)
    (hn : SameNames s t) (hR : ∀ j, t.passed .R j ↔ s.passed .R j) {more : List Nat} (hfree : t.free = s.free ++ more) :
    TakenInOrder t := by
  obtain ⟨⟨n, tail, hle, below, hs_free⟩, taken⟩ := hs
  refine ⟨⟨n, tail ++ more, hcount ▸ hle, fun j hj => (hR j).trans (below j (hcount ▸ hj)), ?_⟩, fun j hp hRj => ?_⟩
  · rw [hfree, hs_free, hc, List.append_assoc]
  · rw [hn.producesAt] at hp
    rw [hn.physDstOf, hc]
    exact taken j hp ((hR j).1 hRj)

theorem TakenInOrder.of_sameRegisters (hs : TakenInOrder s) (h : SameRegisters s t) : TakenInOrder t :=
  hs.of_same h.config h.count h.names h.renamed (more := []) (by rw [h.free, List.append_nil])

theorem TakenInOrder.of_recs_eq (hs : TakenInOrder s) (hc : t.config = s.config) (hr : t.recs = s.recs)
    (hfree : t.free = s.free) : TakenInOrder t :=
  hs.of_same hc (congrArg List.length hr) (.of_recs_eq hr)
    (passed_of_recs_eq hr .R) (more := [])
    (by rw [hfree, List.append_nil])

theorem TakenInOrder.renameCompleted {h p : Nat} {r : Record} (hs : TakenInOrder s) (hfew : FewProducers s.config)
    (htrace : s.recs.map Record.instr = s.config.trace) (hord : Ordered s) (older : ∀ i < h, s.passed .R i)
    (hR : ¬ s.passed .R h) (ht : RenameCompleted s h r p t) : TakenInOrder t := by
  obtain ⟨⟨n, tail, hle, below, hs_free⟩, taken⟩ := hs
  obtain rfl := below.unique (hord.renamedBelow older hR) hle ht.lt_count.le
  have inTrace : s.config.trace[n]? = some r.instr := by rw [← htrace, List.getElem?_map, ht.record]; rfl
  have next := producersBelow_succ inTrace
  have bound := (producersBelow_le s.config.trace (n + 1)).trans hfew
  have upTo : n + 1 ≤ t.count := by
    rw [ht.count]
    exact ht.lt_count
  have renamedBelow := ht.renamedBelow_succ hord older hR
  have others : ∀ j, t.producesAt j = true → t.passed .R j → j ≠ n →
      t.physDstOf j = some (32 + producersBelow t.config.trace j) := fun j hp hRj hj => by
    rw [ht.physDstOf, if_neg hj, ht.config]
    refine taken j (ht.producesAt j ▸ hp) ?_
    rwa [State.passed, ht.stampOf, if_neg fun hc => hj hc.2] at hRj
  obtain ⟨d, rest, hd, hfree, -, -, hrest⟩ | ⟨hprod, -, -, hfree⟩ := ht.tables
  · have hprod : r.instr.produces = true := by rw [← rolesOf_producing ht.wellFormed, hd]; rfl
    rw [if_pos hprod] at next
    rw [hs_free, show s.config.physRegCount - 32 - producersBelow s.config.trace n =
      (s.config.physRegCount - 32 - producersBelow s.config.trace (n + 1)) + 1 by omega, List.range'_succ,
      List.cons_append, List.cons.injEq] at hfree
    refine ⟨⟨n + 1, tail, upTo, renamedBelow, ?_⟩, fun j hp hRj => ?_⟩
    · rw [hrest, ← hfree.2, ht.config, next, Nat.add_assoc]
    · by_cases hj : j = n
      · rw [hj, ht.physDstOf, if_pos rfl, ht.config, ← hfree.1]
      · exact others j hp hRj hj
  · rw [hprod] at next
    refine ⟨⟨n + 1, tail, upTo, renamedBelow, ?_⟩, fun j hp hRj => ?_⟩
    · rw [hfree, hs_free, ht.config, next]
      rfl
    · by_cases hj : j = n
      · rw [hj, ht.producesAt, ht.producesAt_self, hprod] at hp
        cases hp
      · exact others j hp hRj hj

theorem TakenInOrder.renameStage (hs : TakenInOrder s) (hfew : FewProducers s.config) (hsize : Sized s)
    (hord : Ordered s) (h : Machine.renameStage s = .next t) : TakenInOrder t := by
  refine (renameStage_keeps_ordered
    (P := fun u => TakenInOrder u ∧ FewProducers u.config ∧ u.recs.map Record.instr = u.config.trace)
    (fun u _ ⟨hu, few, trace⟩ => ?_) (fun u k x ⟨hu, few, trace⟩ => ⟨hu.of_recs_eq rfl rfl rfl, few, trace⟩)
    (fun u x r p v ordered ⟨hu, few, trace⟩ done _ hn older => ?_) hord ⟨hs, hfew, hsize.fromTrace⟩ h).2.1
  · rw [u.takeGroup_config, u.takeGroup_recs]
    exact ⟨hu.of_recs_eq u.takeGroup_config u.takeGroup_recs u.takeGroup_free, few, trace⟩
  · rw [done.config, done.map_instr]
    exact ⟨hu.renameCompleted few trace ordered older hn done, few, trace⟩

theorem TakenInOrder.of_step (hs : TakenInOrder s) (hfew : FewProducers s.config) (hinv : Inv s)
    (hstep : step s = .next t) : TakenInOrder t := by
  obtain ⟨-, ⟨-, rfl⟩ | ⟨-, hstep⟩⟩ := advance_eq_next hstep
  · exact hs
  · obtain ⟨s₁, s₂, s₃, s₄, s₅, s₆, s₇, h, rfl⟩ := hinv.ordered.tick_stages hinv.shaped.sized hstep
    have registers := h.registers hinv.ordered hinv.shaped.sized hinv.registers
    obtain ⟨aC, aW, -⟩ := h.advances hinv.ordered
    have retired := commitWalk_retired h.commit
    have drained := writebackStage_drained h.ordered₁.queues.2.2.2 h.writeback
    have c₁ : s₁.config = s.config := (congrArg State.config (commitStage_frame h.commit) :)
    have c₂ : s₂.config = s₁.config := (congrArg State.config (writebackStage_frame h.writeback) :)
    have free₂ : s₂.free = s₁.free := (congrArg State.free (writebackStage_frame h.writeback) :)
    have v₃ := issueStage_sameRegisters h.issue
    have v₄ := dispatchStage_sameRegisters h.dispatch
    have names₁ : SameNames s s₁ := retired.stamped.sameNames
    have t₁ : TakenInOrder s₁ :=
      hs.of_same c₁ aC.count names₁ (fun _ => aC.passed_of_ne (by decide)) retired.free
    have t₂ : TakenInOrder s₂ :=
      t₁.of_same c₂ aW.count drained.stamped.sameNames (fun _ => aW.passed_of_ne (by decide)) (more := [])
        (by rw [free₂, List.append_nil])
    have t₄ := (t₂.of_sameRegisters v₃).of_sameRegisters v₄
    have few₄ : FewProducers s₄.config := by rwa [v₄.config, v₃.config, c₂, c₁]
    have t₅ := t₄.renameStage few₄ h.sized₄ h.ordered₄ h.rename
    have t₇ := (t₅.of_sameRegisters (decodeStage_sameRegisters h.sized₅ h.decode)).of_sameRegisters
      (h.ordered₆.fetchStage_sameRegisters h.sized₆ registers.sound₆.filled h.fetch)
    exact t₇.of_recs_eq rfl rfl rfl

/-- No two instructions have taken the same register. -/
theorem TakenInOrder.taken_once (hs : TakenInOrder s) (htrace : s.recs.map Record.instr = s.config.trace) {i j p : Nat}
    (hi : s.producesAt i = true) (hj : s.producesAt j = true) (hRi : s.passed .R i) (hRj : s.passed .R j)
    (hdi : s.physDstOf i = some p) (hdj : s.physDstOf j = some p) : i = j := by
  have inTrace : ∀ {k}, s.producesAt k = true → ∃ x, s.config.trace[k]? = some x ∧ x.produces = true := fun {k} hk => by
    rw [← htrace, List.getElem?_map]
    rw [State.producesAt] at hk
    cases hr : s.recs[k]? with
    | none => rw [hr] at hk; cases hk
    | some r => rw [hr] at hk; exact ⟨_, rfl, hk⟩
  obtain ⟨x, hx, hpx⟩ := inTrace hi
  obtain ⟨y, hy, hpy⟩ := inTrace hj
  have same := hdi.trans hdj.symm
  rw [hs.taken i hi hRi, hs.taken j hj hRj, Option.some.injEq] at same
  obtain hlt | heq | hlt := Nat.lt_trichotomy i j
  · have := producersBelow_lt hx hpx hlt
    omega
  · exact heq
  · have := producersBelow_lt hy hpy hlt
    omega

theorem TakenInOrder.oldestEligible (hs : TakenInOrder s) (hflags : FlagsAwait s) (hinv : Inv s) :
    OldestEligible s := by
  intro e he holdest
  have inTable := hinv.ordered.handles.1 e he
  refine eligible_of_flags fun pos hflag => ?_
  obtain ⟨a, q, p, j, -, hq, hdst, hheld, hW⟩ := hflags.producer hinv he (List.getElem?_eq_getElem inTable) hflag
  obtain ⟨hprod, hR, -, hdst'⟩ := State.holds_iff.1 hheld
  have below := State.lt_of_producerBefore hq
  have committed : s.passed .C q := (hinv.ordered.passed_C (below.trans inTable)).2 (holdest ▸ below)
  have written := hinv.ordered.passed_before (below.trans inTable) rfl committed
  have renamed := hinv.ordered.renamed_of_issued (hinv.ordered.issued_of_committed committed)
  have same := hs.taken_once hinv.shaped.fromTrace hprod (State.producesAt_of_producerBefore hq) hR renamed hdst' hdst
  exact hW (same ▸ written)

end

/-! ### The run -/

/-- The invariant of a run with few producing instructions. -/
structure FewInv (s : State) : Prop where
  inv : Inv s
  flags : FlagsAwait s
  few : FewProducers s.config
  taken : TakenInOrder s

theorem FewInv.of_step {s t : State} (hs : FewInv s) (h : step s = .next t) : FewInv t where
  inv := hs.inv.of_step h
  flags := hs.flags.of_step hs.inv h
  few := hs.inv.step_config h ▸ hs.few
  taken := hs.taken.of_step hs.few hs.inv h

theorem fewInv_init {c : Config} (hc : c.legal = true) (hfew : FewProducers c) : FewInv (State.init c) where
  inv := resetSatisfiesTheInvariant c hc
  flags := flagsAwait_init c
  few := hfew
  taken := takenInOrder_init c

/-- A run with few producing instructions reaches the end. -/
theorem FewInv.reaches_done {c : Config} (hc : c.legal = true) (hfew : FewProducers c) :
    ∃ k ≤ 7 * c.trace.length, ∃ t, Host.Core.run core k (State.init c) = .next t ∧ FewInv t ∧ t.done = true :=
  run_reaches_done (fun _ _ hs h => FewInv.of_step hs h) (fun _ hs => hs.inv)
    (fun _ hs => hs.taken.oldestEligible hs.flags hs.inv) (fewInv_init hc hfew) (card_unset_init_le c)

/-- Settles O52: the oldest instruction never waits for a later owner of its source's register. -/
theorem fewProducersTerminate : Obligations.FewProducersTerminate := by
  intro c hc hfew
  obtain ⟨k, hk, t, ht, -, hd⟩ := FewInv.reaches_done hc hfew
  exact ⟨k, hk, t, ht, hd⟩

end Sys2Proof.Machine

/-! # An instruction alone in the trace (70_reset_and_hazards.md section 3) -/

namespace Sys2Proof.Machine

open Sys2Proof

/-- A step counts at most one cycle. -/
theorem step_currentCycle_le {s t : State} (h : step s = .next t) : t.currentCycle ≤ s.currentCycle + 1 := by
  cases hd : s.done with
  | false => exact (step_currentCycle hd h).le
  | true =>
    obtain ⟨-, ⟨-, rfl⟩ | ⟨hd', -⟩⟩ := advance_eq_next h
    · exact Nat.le_succ _
    · rw [hd] at hd'
      cases hd'

theorem run_currentCycle_le {k : Nat} {s t : State} (h : Host.Core.run core k s = .next t) :
    t.currentCycle ≤ s.currentCycle + k := by
  induction k generalizing s with
  | zero => exact next_inj.1 h ▸ le_rfl
  | succ k ih =>
    obtain ⟨u, hu, ht⟩ := run_succ_eq_next h
    have := step_currentCycle_le hu
    have := ih ht
    omega

/-- The stamps of a committed instruction in a run of seven ticks. -/
theorem Inv.stamps_of_seven {s : State} (hs : Inv s) (hseven : s.currentCycle = 7) {j : Nat} (hC : s.passed .C j) :
    [s.stampOf .F j, s.stampOf .Dc j, s.stampOf .R j, s.stampOf .Di j, s.stampOf .IS j, s.stampOf .W j,
      s.stampOf .C j] = [0, 1, 2, 3, 4, 5, 6].map some := by
  obtain ⟨f, dc, r, di, is, w, c, hf, hdc, hr, hdi, his, hw, hc, h⟩ := hs.stamps_of_committed hC
  obtain ⟨rfl, rfl, rfl, rfl, rfl, rfl, rfl⟩ : f = 0 ∧ dc = 1 ∧ r = 2 ∧ di = 3 ∧ is = 4 ∧ w = 5 ∧ c = 6 := by omega
  rw [hf, hdc, hr, hdi, his, hw, hc]
  rfl

/-- A state in which everything is done has renamed all its instructions and no more. -/
theorem Inv.renamedBelow_of_done {s : State} (hs : Inv s) (hd : s.done = true) : RenamedBelow s.count s := fun _ hj =>
  iff_of_true (hs.passed_of_done hd hj .R) hj

section
variable {i : Instr} {w p : Nat} {t : State} (ht : FewInv t)
  (hconfig : t.config = { issueWidth := w, physRegCount := p, trace := [i] }) (hd : t.done = true)
include ht hconfig

theorem FewInv.count_of_lone : t.count = 1 := by
  rw [ht.inv.shaped.sized.count, hconfig]
  rfl

theorem FewInv.record_of_lone : ∃ r, t.recs[0]? = some r ∧ r.instr = i := by
  have := congrArg (·[0]?) ht.inv.shaped.fromTrace
  simp only [List.getElem?_map, hconfig] at this
  exact Option.map_eq_some_iff.1 this

include hd

/-- The register taken, if there is one, stands at the tail of the free list. -/
theorem FewInv.free_of_lone (hp : 32 < p) :
    if i.produces then t.free = List.range' 33 (p - 33) ++ [32] else t.free = List.range' 32 (p - 32) := by
  have count := ht.count_of_lone hconfig
  obtain ⟨n, tail, hle, below, hfree⟩ := ht.taken.free
  obtain rfl := below.unique (ht.inv.renamedBelow_of_done hd) hle le_rfl
  have perm := ht.inv.free_of_done hd
  rw [count, hconfig] at hfree
  rw [hfree, hconfig] at perm
  have one : producersBelow [i] 1 = if i.produces = true then 1 else 0 := by
    rw [producersBelow_succ (n := 0) (i := i) rfl]
    exact Nat.zero_add _
  simp only [one] at hfree perm
  split
  · next hprod =>
    rw [if_pos hprod] at hfree perm
    have pool : List.range' 32 (p - 32) = 32 :: List.range' 33 (p - 33) := by
      rw [show p - 32 = (p - 33) + 1 by omega, List.range'_succ]
    have rest : tail = [32] := by
      rw [pool, show p - 32 - 1 = p - 33 by omega] at perm
      exact List.perm_singleton.1 ((List.perm_append_left_iff _).1 (perm.trans List.perm_append_comm (l₂ := [32] ++ _)))
    rw [hfree, rest, show p - 32 - 1 = p - 33 by omega]
  · next hprod =>
    rw [if_neg hprod] at hfree perm
    have noneGivenBack : tail = [] := by simpa using perm.length_eq
    rw [hfree, noneGivenBack, List.append_nil]
    rfl

/-- The register taken is mapped. -/
theorem FewInv.map_of_lone (a : Fin 32) :
    t.map[a] = if i.produces = true ∧ i.op1 = (a.val : Int) then 32 else a.val := by
  obtain ⟨r, hr, instr⟩ := ht.record_of_lone hconfig
  have mapped := (ht.inv.mapped a).trans (mappingAfter_of_renamedBelow le_rfl (ht.inv.renamedBelow_of_done hd) a)
  rw [ht.count_of_lone hconfig, State.registerBefore, t.producerBefore_succ hr, Record.writes, instr] at mapped
  have inTable : 0 < t.count := by rw [ht.count_of_lone hconfig]; exact Nat.one_pos
  rw [mapped]
  by_cases hw : i.produces = true ∧ i.op1 = (a.val : Int)
  · have produces : t.producesAt 0 = true := by rw [State.producesAt, hr, ← hw.1, ← instr]; rfl
    have taken := ht.taken.taken 0 produces (ht.inv.passed_of_done hd inTable .R)
    rw [if_pos hw, if_pos (by simpa using hw), Option.bind_some, taken]
    rfl
  · rw [if_neg hw, if_neg (by simpa using hw)]
    rfl

/-- The only row. -/
theorem FewInv.report_of_lone (hseven : t.currentCycle = 7) : t.report = some [(0, [0, 1, 2, 3, 4, 5, 6])] := by
  obtain ⟨rows, hrows, firsts, each⟩ := (reportHasEveryRow t ht.inv).2 hd
  rw [ht.count_of_lone hconfig] at firsts
  obtain ⟨x, rfl⟩ : ∃ x, rows = [x] := List.length_eq_one_iff.1 (by simpa using congrArg List.length firsts)
  obtain ⟨-, stamps⟩ := each x List.mem_cons_self
  have first : x.1 = 0 := by simpa using firsts
  have inTable : x.1 < t.count := by rw [ht.count_of_lone hconfig, first]; exact Nat.one_pos
  rw [ht.inv.stamps_of_seven hseven (ht.inv.committed_of_done hd inTable)] at stamps
  have row : x.2 = [0, 1, 2, 3, 4, 5, 6] := (List.map_injective_iff.2 (Option.some_injective _)) stamps
  rw [hrows, ← row, ← first]

end

/-- Settles O36: at most seven stamps are unset at reset, no run is done before seven ticks, and so the seven increasing
stamps are those of the seven ticks. -/
theorem loneInstructionTakesSevenTicks : Obligations.LoneInstructionTakesSevenTicks := by
  intro i w p hwf hw hp
  have legal : ({ issueWidth := w, physRegCount := p, trace := [i] } : Config).legal = true := by
    rw [Config.legal, Bool.and_eq_true]
    exact ⟨Config.widthsLegal_iff.2 ⟨hw, hp⟩, List.all_eq_true.2 fun x hx => List.mem_singleton.1 hx ▸ hwf⟩
  have few : FewProducers { issueWidth := w, physRegCount := p, trace := [i] } :=
    List.countP_le_length.trans (show 1 ≤ p - 32 by omega)
  obtain ⟨k, hk, t, hrun, ht, hd⟩ := FewInv.reaches_done legal few
  obtain ⟨t', hrun', -, hconfig⟩ := invariantHoldsForEver _ k (resetSatisfiesTheInvariant _ legal)
  cases next_inj.1 (hrun.symm.trans hrun')
  have count := ht.count_of_lone hconfig
  have atLeast := ht.inv.seven_le_of_done hd count.ge
  have atMost := run_currentCycle_le hrun
  have zero : (State.init { issueWidth := w, physRegCount := p, trace := [i] }).currentCycle = 0 := rfl
  rw [List.length_singleton] at hk
  obtain rfl : k = 7 := by omega
  have seven : t.currentCycle = 7 := by omega
  exact ⟨t, hrun, hd, seven, ht.report_of_lone hconfig hd seven, ht.free_of_lone hconfig hd hp,
    ht.map_of_lone hconfig hd⟩

end Sys2Proof.Machine
